-- ==== Sys2Proof/Word.lean ====
section
/-! DEFINITION. The word types of the machine (`10_state.md` R20, R28; `20_memory.md` R50). -/

namespace Sys2Proof

/-- A byte, the addressable unit of memory (R50). -/
abbrev Byte := BitVec 8

/-- A 16-bit word: a segment selector (R28) or a port number (R50 b). -/
abbrev Half := BitVec 16

/-- A 32-bit long: a general register, a linear address, `pc` (R20, R24, R50). -/
abbrev Word := BitVec 32

/-- The number of bytes of the memory space, `2^32` (R50 a). -/
def addressSpace : Nat := 4294967296

/-- The number of ports of the I/O space, `65536` (R50 b). -/
def portSpace : Nat := 65536

end Sys2Proof
end

