-- ==== Sys2Proof/Config.lean ====
section
/-! DEFINITION. What the spec leaves open and nothing in the machine may fix: the draws `any_N`
(`00_scope.md` section 6, `70_reset_and_hazards.md` R297, D13) and the port oracle (`20_memory.md` R60, D16).
Each is an opaque constant without a body: no proof can see a value of it. -/

namespace Sys2Proof

/-- The two kinds of port event of R60. -/
inductive PortKind where
  | read
  | write
  deriving DecidableEq, Repr

/-- One entry `(kind, port, n, value)` of the port event history (R60); `value` is zero-extended to 32 bits. -/
structure PortEvent where
  kind  : PortKind
  port  : Half
  bytes : Nat
  value : Word
  deriving DecidableEq, Repr

/-- A one-bit draw `any_1`, applied to the number of the draw (R297; log 6). UNVERIFIED by design: any value. -/
opaque Config.freeBit : Nat → Bool

/-- A draw of up to 32 bits, applied to the number of the draw and narrowed where it is used (R297; log 6). -/
opaque Config.freeWord : Nat → Word

/-- `PortOracle(history, port, n)` of R60: what a port read answers once the launch parameter `portAnswers` is
used up (log 7). -/
opaque Config.portOracle : List PortEvent → Half → Nat → Word

end Sys2Proof
end

