-- ==== Sys2Proof/Syntax.lean ====
section
/-! DEFINITION. The instructions as the spec writes them: operand classes (`00_scope.md` R9, `10_state.md` R20, R28,
`20_memory.md` R54, R55) and one constructor per mnemonic of spec/opcode_table.json, each row of the table being one
operand form of its constructor. A register operand has the type of its own width, so an operand of another width
(`90_conflicts.md` C13) cannot be written; operands stand in the source's order, destination last (R11). -/

namespace Sys2Proof

/-- `reg32` (R20), in the order of the register numbers 0 to 7 of R22. -/
inductive Reg32 where
  | eax | ecx | edx | ebx | esp | ebp | esi | edi
  deriving DecidableEq, Repr

/-- `reg16` (R20), in the order of R22. -/
inductive Reg16 where
  | ax | cx | dx | bx | sp | bp | si | di
  deriving DecidableEq, Repr

/-- `reg8` (R20), in the order of R22: number 4 is `%ah`. -/
inductive Reg8 where
  | al | cl | dl | bl | ah | ch | dh | bh
  deriving DecidableEq, Repr

/-- `sreg` (R28), in the order of the numbers 0 to 5 of R28. -/
inductive SReg where
  | es | cs | ss | ds | fs | gs
  deriving DecidableEq, Repr

/-- The scale factors 1, 2, 4, 8 of an index register (R54, R77). -/
inductive Scale where
  | s1 | s2 | s4 | s8
  deriving DecidableEq, Repr

/-- A memory operand `seg:disp(base, index, scale)` (R54); `seg = none` means the default segment (R55). -/
structure MemOp where
  seg   : Option SReg
  base  : Option Reg32
  index : Option (Reg32 × Scale)
  disp  : Word
  deriving DecidableEq, Repr

/-- `r/m` over a class of registers (R9). -/
inductive RM (ρ : Type) where
  | reg (r : ρ)
  | mem (m : MemOp)
  deriving DecidableEq, Repr

/-- The operand forms of `add` … `cmp` (R160, R82): `reg, r/m`; `r/m, reg`; `imm, accumulator`; `imm, r/m`; and the
sign-extended `imm8, r/m` of the word and long widths. -/
inductive AluForm (ρ : Type) (n : Nat) where
  | regRm (src : ρ) (dst : RM ρ)
  | rmReg (src : RM ρ) (dst : ρ)
  | immAcc (imm : BitVec n)
  | immRm (imm : BitVec n) (dst : RM ρ)
  | imm8Rm (imm : Byte) (dst : RM ρ)
  deriving DecidableEq, Repr

/-- The operand forms of `test` (R168). -/
inductive TestForm (ρ : Type) (n : Nat) where
  | regRm (src : ρ) (dst : RM ρ)
  | rmReg (src : RM ρ) (dst : ρ)
  | immAcc (imm : BitVec n)
  | immRm (imm : BitVec n) (dst : RM ρ)
  deriving DecidableEq, Repr

/-- The operand forms of `inc`, `dec` of a word or long (R166, R167): `r/m`, and the short register form. -/
inductive IncForm (ρ : Type) where
  | rm (dst : RM ρ)
  | reg (dst : ρ)
  deriving DecidableEq, Repr

/-- The operand forms of `sal`, `shl`, `sar`, `shr` (R190): count `imm8`, count fixed at 1, count `%cl`. -/
inductive ShiftForm (ρ : Type) where
  | imm (count : Byte) (dst : RM ρ)
  | one (dst : RM ρ)
  | cl (dst : RM ρ)
  deriving DecidableEq, Repr

/-- The operand forms of `shld`, `shrd` (R195, R196): count `imm8` or `%cl`, source register, destination. -/
inductive DShiftForm (ρ : Type) where
  | imm (count : Byte) (src : ρ) (dst : RM ρ)
  | cl (src : ρ) (dst : RM ρ)
  deriving DecidableEq, Repr

/-- The operand forms of `popw` (R106). -/
inductive PopForm where
  | reg (dst : Reg16)
  | rm (dst : RM Reg16)
  deriving DecidableEq, Repr

/-- The operand forms of `popl` (R106, R107). -/
inductive PopLongForm where
  | reg (dst : Reg32)
  | rm (dst : RM Reg32)
  | sreg (dst : SReg)
  deriving DecidableEq, Repr

/-- The operand forms of `pushw` (R108, R109). -/
inductive PushForm where
  | reg (src : Reg16)
  | rm (src : RM Reg16)
  | imm8 (imm : Byte)
  | imm (imm : Half)
  deriving DecidableEq, Repr

/-- The operand forms of `pushl` (R108, R109, R110). -/
inductive PushLongForm where
  | reg (src : Reg32)
  | rm (src : RM Reg32)
  | imm8 (imm : Byte)
  | imm (imm : Word)
  | sreg (src : SReg)
  deriving DecidableEq, Repr

/-- The port of `in`, `out`: an immediate 0 to 255, or `(%dx)` (R120, R121). -/
inductive PortForm where
  | imm8 (port : Byte)
  | dx
  deriving DecidableEq, Repr

/-- The operand forms of `imul` of a word or long (R231, R232, R233). -/
inductive ImulForm (ρ : Type) (n : Nat) where
  | one (src : RM ρ)
  | two (src : RM ρ) (dst : ρ)
  | three8 (imm : Byte) (src : RM ρ) (dst : ρ)
  | three (imm : BitVec n) (src : RM ρ) (dst : ρ)
  deriving DecidableEq, Repr

/-- The displacement of `jmp`, `jcc` (R251, R252), relative to `pc_next`. -/
inductive JumpForm where
  | disp8 (disp : Byte)
  | disp32 (disp : Word)
  deriving DecidableEq, Repr

/-- The instructions: one constructor per mnemonic of spec/opcode_table.json, in the table's order. -/
inductive Instr where
  | ldsw (src : MemOp) (dst : Reg16)  -- R101
  | ldsl (src : MemOp) (dst : Reg32)
  | lesw (src : MemOp) (dst : Reg16)  -- R102
  | lesl (src : MemOp) (dst : Reg32)
  | lfsw (src : MemOp) (dst : Reg16)  -- R103
  | lfsl (src : MemOp) (dst : Reg32)
  | lgsw (src : MemOp) (dst : Reg16)  -- R104
  | lgsl (src : MemOp) (dst : Reg32)
  | lssw (src : MemOp) (dst : Reg16)  -- R105
  | lssl (src : MemOp) (dst : Reg32)
  | popw (f : PopForm)  -- R106
  | popl (f : PopLongForm)  -- R106, R107
  | pop (dst : SReg)  -- R107
  | pushw (f : PushForm)  -- R108, R109
  | pushl (f : PushLongForm)  -- R108, R109, R110
  | push (src : SReg)  -- R110
  | inb (port : PortForm)  -- R120, R121
  | inw (port : PortForm)
  | inl (port : PortForm)
  | insb  -- R122
  | rep_insb  -- R126
  | insw
  | rep_insw
  | insl
  | rep_insl
  | outb (port : PortForm)  -- R123, R124
  | outw (port : PortForm)
  | outl (port : PortForm)
  | outsb (seg : Option SReg)  -- R125
  | rep_outsb (seg : Option SReg)  -- R126
  | outsw (seg : Option SReg)
  | rep_outsw (seg : Option SReg)
  | outsl (seg : Option SReg)
  | rep_outsl (seg : Option SReg)
  | lahf  -- R140
  | sahf  -- R141
  | cmc  -- R144
  | clc  -- R145
  | stc  -- R146
  | cli  -- R147
  | sti  -- R148
  | cld  -- R149
  | std  -- R150
  | popfw  -- R142
  | popfl  -- R142
  | pushfw  -- R143
  | pushfl  -- R143
  | addb (f : AluForm Reg8 8)  -- R161
  | addw (f : AluForm Reg16 16)
  | addl (f : AluForm Reg32 32)
  | orb (f : AluForm Reg8 8)  -- R214
  | orw (f : AluForm Reg16 16)
  | orl (f : AluForm Reg32 32)
  | adcb (f : AluForm Reg8 8)  -- R162
  | adcw (f : AluForm Reg16 16)
  | adcl (f : AluForm Reg32 32)
  | sbbb (f : AluForm Reg8 8)  -- R164
  | sbbw (f : AluForm Reg16 16)
  | sbbl (f : AluForm Reg32 32)
  | andb (f : AluForm Reg8 8)  -- R213
  | andw (f : AluForm Reg16 16)
  | andl (f : AluForm Reg32 32)
  | subb (f : AluForm Reg8 8)  -- R163
  | subw (f : AluForm Reg16 16)
  | subl (f : AluForm Reg32 32)
  | xorb (f : AluForm Reg8 8)  -- R215
  | xorw (f : AluForm Reg16 16)
  | xorl (f : AluForm Reg32 32)
  | cmpb (f : AluForm Reg8 8)  -- R165
  | cmpw (f : AluForm Reg16 16)
  | cmpl (f : AluForm Reg32 32)
  | incb (dst : RM Reg8)  -- R166
  | incw (f : IncForm Reg16)
  | incl (f : IncForm Reg32)
  | decb (dst : RM Reg8)  -- R167
  | decw (f : IncForm Reg16)
  | decl (f : IncForm Reg32)
  | testb (f : TestForm Reg8 8)  -- R168
  | testw (f : TestForm Reg16 16)
  | testl (f : TestForm Reg32 32)
  | salb (f : ShiftForm Reg8)  -- R191
  | salw (f : ShiftForm Reg16)
  | sall (f : ShiftForm Reg32)
  | shlb (f : ShiftForm Reg8)  -- R192
  | shlw (f : ShiftForm Reg16)
  | shll (f : ShiftForm Reg32)
  | shrb (f : ShiftForm Reg8)  -- R194
  | shrw (f : ShiftForm Reg16)
  | shrl (f : ShiftForm Reg32)
  | sarb (f : ShiftForm Reg8)  -- R193
  | sarw (f : ShiftForm Reg16)
  | sarl (f : ShiftForm Reg32)
  | shldw (f : DShiftForm Reg16)  -- R195
  | shldl (f : DShiftForm Reg32)
  | shrdw (f : DShiftForm Reg16)  -- R196
  | shrdl (f : DShiftForm Reg32)
  | notb (dst : RM Reg8)  -- R210
  | notw (dst : RM Reg16)
  | notl (dst : RM Reg32)
  | negb (dst : RM Reg8)  -- R211
  | negw (dst : RM Reg16)
  | negl (dst : RM Reg32)
  | mulb (src : RM Reg8)  -- R234
  | mulw (src : RM Reg16)
  | mull (src : RM Reg32)
  | mul (src : RM Reg32)  -- R230: `mull`
  | imulb (src : RM Reg8)  -- R231
  | imulw (f : ImulForm Reg16 16)  -- R231, R232, R233
  | imull (f : ImulForm Reg32 32)
  | imul (f : ImulForm Reg32 32)  -- R230: `imull`
  | divb (src : RM Reg8)  -- R235
  | divw (src : RM Reg16)
  | divl (src : RM Reg32)
  | div (src : RM Reg32)  -- R230: `divl`
  | boundw (index : Reg16) (bounds : MemOp)  -- R212
  | boundl (index : Reg32) (bounds : MemOp)
  | jmp (f : JumpForm)  -- R251
  | jo (f : JumpForm)  -- R252
  | jno (f : JumpForm)
  | jb (f : JumpForm)
  | jc (f : JumpForm)
  | jnae (f : JumpForm)
  | jae (f : JumpForm)
  | jnb (f : JumpForm)
  | jnc (f : JumpForm)
  | je (f : JumpForm)
  | jz (f : JumpForm)
  | jne (f : JumpForm)
  | jnz (f : JumpForm)
  | jbe (f : JumpForm)
  | jna (f : JumpForm)
  | ja (f : JumpForm)
  | jnbe (f : JumpForm)
  | js (f : JumpForm)
  | jns (f : JumpForm)
  | jp (f : JumpForm)
  | jpe (f : JumpForm)
  | jnp (f : JumpForm)
  | jpo (f : JumpForm)
  | jl (f : JumpForm)
  | jnge (f : JumpForm)
  | jge (f : JumpForm)
  | jnl (f : JumpForm)
  | jle (f : JumpForm)
  | jng (f : JumpForm)
  | jg (f : JumpForm)
  | jnle (f : JumpForm)
  deriving DecidableEq, Repr

end Sys2Proof
end

