-- ==== Sys2Proof/WellFormed.lean ====
section
/-! DEFINITION. Which terms of the syntax are instructions: what the types of Syntax.lean do not already rule out.
`%esp` is no index register (`20_memory.md` R54), the byte operations have no sign-extended `imm8` form
(`30_encoding.md` R82), and `%cs` cannot be popped (`40_segment_register.md` R107). -/

namespace Sys2Proof

/-- `index` may not be `%esp` (R54). -/
def MemOp.wf (m : MemOp) : Bool :=
  match m.index with
  | some (.esp, _) => false
  | _ => true

def RM.wf {ρ : Type} : RM ρ → Bool
  | .reg _ => true
  | .mem m => m.wf

/-- The word and long forms of R160. -/
def AluForm.wf {ρ : Type} {n : Nat} : AluForm ρ n → Bool
  | .regRm _ d => d.wf
  | .rmReg m _ => m.wf
  | .immAcc _ => true
  | .immRm _ d => d.wf
  | .imm8Rm _ d => d.wf

/-- The byte forms of R160: opcode `83` has no byte sibling (R82). -/
def AluForm.wfByte {ρ : Type} {n : Nat} : AluForm ρ n → Bool
  | .imm8Rm _ _ => false
  | f => f.wf

def TestForm.wf {ρ : Type} {n : Nat} : TestForm ρ n → Bool
  | .regRm _ d => d.wf
  | .rmReg m _ => m.wf
  | .immAcc _ => true
  | .immRm _ d => d.wf

def IncForm.wf {ρ : Type} : IncForm ρ → Bool
  | .rm d => d.wf
  | .reg _ => true

def ShiftForm.wf {ρ : Type} : ShiftForm ρ → Bool
  | .imm _ d => d.wf
  | .one d => d.wf
  | .cl d => d.wf

def DShiftForm.wf {ρ : Type} : DShiftForm ρ → Bool
  | .imm _ _ d => d.wf
  | .cl _ d => d.wf

def PopForm.wf : PopForm → Bool
  | .reg _ => true
  | .rm d => d.wf

/-- `%cs` cannot be popped (R107). -/
def SReg.poppable (r : SReg) : Bool := r != .cs

def PopLongForm.wf : PopLongForm → Bool
  | .reg _ => true
  | .rm d => d.wf
  | .sreg r => r.poppable

def PushForm.wf : PushForm → Bool
  | .rm m => m.wf
  | _ => true

def PushLongForm.wf : PushLongForm → Bool
  | .rm m => m.wf
  | _ => true

def ImulForm.wf {ρ : Type} {n : Nat} : ImulForm ρ n → Bool
  | .one m => m.wf
  | .two m _ => m.wf
  | .three8 _ m _ => m.wf
  | .three _ m _ => m.wf

/-- The well-formed instructions. -/
def Instr.wf : Instr → Bool
  | .ldsw m _ => m.wf
  | .ldsl m _ => m.wf
  | .lesw m _ => m.wf
  | .lesl m _ => m.wf
  | .lfsw m _ => m.wf
  | .lfsl m _ => m.wf
  | .lgsw m _ => m.wf
  | .lgsl m _ => m.wf
  | .lssw m _ => m.wf
  | .lssl m _ => m.wf
  | .popw f => f.wf
  | .popl f => f.wf
  | .pop r => r.poppable
  | .pushw f => f.wf
  | .pushl f => f.wf
  | .push _ => true
  | .inb _ => true
  | .inw _ => true
  | .inl _ => true
  | .insb => true
  | .rep_insb => true
  | .insw => true
  | .rep_insw => true
  | .insl => true
  | .rep_insl => true
  | .outb _ => true
  | .outw _ => true
  | .outl _ => true
  | .outsb _ => true
  | .rep_outsb _ => true
  | .outsw _ => true
  | .rep_outsw _ => true
  | .outsl _ => true
  | .rep_outsl _ => true
  | .lahf => true
  | .sahf => true
  | .cmc => true
  | .clc => true
  | .stc => true
  | .cli => true
  | .sti => true
  | .cld => true
  | .std => true
  | .popfw => true
  | .popfl => true
  | .pushfw => true
  | .pushfl => true
  | .addb f => f.wfByte
  | .addw f => f.wf
  | .addl f => f.wf
  | .orb f => f.wfByte
  | .orw f => f.wf
  | .orl f => f.wf
  | .adcb f => f.wfByte
  | .adcw f => f.wf
  | .adcl f => f.wf
  | .sbbb f => f.wfByte
  | .sbbw f => f.wf
  | .sbbl f => f.wf
  | .andb f => f.wfByte
  | .andw f => f.wf
  | .andl f => f.wf
  | .subb f => f.wfByte
  | .subw f => f.wf
  | .subl f => f.wf
  | .xorb f => f.wfByte
  | .xorw f => f.wf
  | .xorl f => f.wf
  | .cmpb f => f.wfByte
  | .cmpw f => f.wf
  | .cmpl f => f.wf
  | .incb m => m.wf
  | .incw f => f.wf
  | .incl f => f.wf
  | .decb m => m.wf
  | .decw f => f.wf
  | .decl f => f.wf
  | .testb f => f.wf
  | .testw f => f.wf
  | .testl f => f.wf
  | .salb f => f.wf
  | .salw f => f.wf
  | .sall f => f.wf
  | .shlb f => f.wf
  | .shlw f => f.wf
  | .shll f => f.wf
  | .shrb f => f.wf
  | .shrw f => f.wf
  | .shrl f => f.wf
  | .sarb f => f.wf
  | .sarw f => f.wf
  | .sarl f => f.wf
  | .shldw f => f.wf
  | .shldl f => f.wf
  | .shrdw f => f.wf
  | .shrdl f => f.wf
  | .notb m => m.wf
  | .notw m => m.wf
  | .notl m => m.wf
  | .negb m => m.wf
  | .negw m => m.wf
  | .negl m => m.wf
  | .mulb m => m.wf
  | .mulw m => m.wf
  | .mull m => m.wf
  | .mul m => m.wf
  | .imulb m => m.wf
  | .imulw f => f.wf
  | .imull f => f.wf
  | .imul f => f.wf
  | .divb m => m.wf
  | .divw m => m.wf
  | .divl m => m.wf
  | .div m => m.wf
  | .boundw _ m => m.wf
  | .boundl _ m => m.wf
  | .jmp _ => true
  | .jo _ => true
  | .jno _ => true
  | .jb _ => true
  | .jc _ => true
  | .jnae _ => true
  | .jae _ => true
  | .jnb _ => true
  | .jnc _ => true
  | .je _ => true
  | .jz _ => true
  | .jne _ => true
  | .jnz _ => true
  | .jbe _ => true
  | .jna _ => true
  | .ja _ => true
  | .jnbe _ => true
  | .js _ => true
  | .jns _ => true
  | .jp _ => true
  | .jpe _ => true
  | .jnp _ => true
  | .jpo _ => true
  | .jl _ => true
  | .jnge _ => true
  | .jge _ => true
  | .jnl _ => true
  | .jle _ => true
  | .jng _ => true
  | .jg _ => true
  | .jnle _ => true

/-- The same as a proposition. -/
abbrev WellFormed (i : Instr) : Prop := i.wf = true

end Sys2Proof
end

