-- ==== Sys2Proof/Decode.lean ====
section
/-! DEFINITION. The binary encoding (`30_encoding.md` R75 to R85): a decoder, total on any bytes, that rejects by
name, and after it an encoder written from the same tables. The spec calls the bytes informative (D1); they are what
a program in memory consists of. Synonymous spellings share their words: the decoder answers the first spelling of
spec/opcode_table.json (`Instr.canon`; log 21). -/

namespace Sys2Proof

/-- Why bytes are no instruction of the model (R79, R83; D20). The model refuses them, it raises no exception. -/
inductive DecodeError where
  /-- The bytes end inside the instruction. -/
  | truncated
  /-- "At most one prefix of each kind; the model refuses repeated or conflicting prefixes" (R79). -/
  | repeatedPrefix
  /-- `67`, the address size (R79). -/
  | addressSize
  /-- `F0`, `lock` (R79). -/
  | lockPrefix
  /-- `F2`, `repne` (R79). -/
  | repnePrefix
  /-- `F3` before an opcode that is not `6C` to `6F` (R79, U14). -/
  | repNotAllowed
  /-- `66` before an instruction of which the table has no `66` row and which is no byte operation (R78, R85). -/
  | opsizeNotAllowed
  /-- A segment override on an instruction without a memory operand, or on `ins` (R79; log 20). -/
  | segmentNotAllowed
  /-- ModRM `mod = 11` where the operand must be in memory (`lds` and siblings, `bound`; R83). -/
  | registerOperand
  /-- An opcode extension that names no row (R83). -/
  | reservedExtension
  /-- An opcode that names no row (R83). -/
  | unknownOpcode
  deriving DecidableEq, Repr

/-- What a parser answers: a value and the bytes after it, or why not. -/
abbrev Parsed (α : Type) := Except DecodeError (α × List Byte)

/-- Parse on with the value and the bytes after it; the first error stands. -/
def parseThen {α β : Type} (x : Parsed α) (f : α → List Byte → Parsed β) : Parsed β :=
  match x with
  | .ok (a, bs) => f a bs
  | .error e => .error e

/-! ### Register, segment and scale numbers (R22, R28, R77) -/

def Reg32.code : Reg32 → BitVec 3
  | .eax => 0#3
  | .ecx => 1#3
  | .edx => 2#3
  | .ebx => 3#3
  | .esp => 4#3
  | .ebp => 5#3
  | .esi => 6#3
  | .edi => 7#3

def Reg32.ofCode (c : BitVec 3) : Reg32 :=
  match c.toNat with
  | 0 => .eax
  | 1 => .ecx
  | 2 => .edx
  | 3 => .ebx
  | 4 => .esp
  | 5 => .ebp
  | 6 => .esi
  | _ => .edi

def Reg16.code : Reg16 → BitVec 3
  | .ax => 0#3
  | .cx => 1#3
  | .dx => 2#3
  | .bx => 3#3
  | .sp => 4#3
  | .bp => 5#3
  | .si => 6#3
  | .di => 7#3

def Reg16.ofCode (c : BitVec 3) : Reg16 :=
  match c.toNat with
  | 0 => .ax
  | 1 => .cx
  | 2 => .dx
  | 3 => .bx
  | 4 => .sp
  | 5 => .bp
  | 6 => .si
  | _ => .di

def Reg8.code : Reg8 → BitVec 3
  | .al => 0#3
  | .cl => 1#3
  | .dl => 2#3
  | .bl => 3#3
  | .ah => 4#3
  | .ch => 5#3
  | .dh => 6#3
  | .bh => 7#3

def Reg8.ofCode (c : BitVec 3) : Reg8 :=
  match c.toNat with
  | 0 => .al
  | 1 => .cl
  | 2 => .dl
  | 3 => .bl
  | 4 => .ah
  | 5 => .ch
  | 6 => .dh
  | _ => .bh

def Scale.code : Scale → BitVec 2
  | .s1 => 0#2
  | .s2 => 1#2
  | .s4 => 2#2
  | .s8 => 3#2

def Scale.ofCode (c : BitVec 2) : Scale :=
  match c.toNat with
  | 0 => .s1
  | 1 => .s2
  | 2 => .s4
  | _ => .s8

/-- The segment-override prefix bytes of R79. -/
def SReg.overrideByte : SReg → Byte
  | .es => 0x26#8
  | .cs => 0x2E#8
  | .ss => 0x36#8
  | .ds => 0x3E#8
  | .fs => 0x64#8
  | .gs => 0x65#8

def SReg.ofOverride (b : Byte) : Option SReg :=
  if b = 0x26#8 then some .es
  else if b = 0x2E#8 then some .cs
  else if b = 0x36#8 then some .ss
  else if b = 0x3E#8 then some .ds
  else if b = 0x64#8 then some .fs
  else if b = 0x65#8 then some .gs
  else none

/-- An `r/m` operand with its registers renamed. -/
def RM.map {ρ σ : Type} (f : ρ → σ) : RM ρ → RM σ
  | .reg r => .reg (f r)
  | .mem m => .mem m

/-! ### Multi-byte fields, little-endian (R75, R80) -/

/-- The low `k` bytes of `v`, least significant first. -/
def leBytes : Nat → Nat → List Byte
  | 0, _ => []
  | k + 1, v => BitVec.ofNat 8 v :: leBytes k (v / 256)

/-- The next `k` bytes as one number. -/
def takeLE : Nat → List Byte → Parsed Nat
  | 0, bs => .ok (0, bs)
  | _ + 1, [] => .error .truncated
  | k + 1, b :: bs =>
    parseThen (takeLE k bs) fun v bs =>
    .ok (b.toNat + 256 * v, bs)

/-- The bytes of an `n`-bit immediate or displacement. -/
def immBytes {n : Nat} (v : BitVec n) : List Byte := leBytes (n / 8) v.toNat

/-- The next `n`-bit immediate or displacement. -/
def takeImm (n : Nat) (bs : List Byte) : Parsed (BitVec n) :=
  parseThen (takeLE (n / 8) bs) fun v bs =>
  .ok (BitVec.ofNat n v, bs)

/-! ### ModRM and SIB (R76, R77) -/

/-- The fields 7:6, 5:3, 2:0 of a ModRM or SIB byte, put together. -/
def packFields (hi : BitVec 2) (mid lo : BitVec 3) : Byte := hi ++ mid ++ lo

/-- The displacement that `mod` asks for: none, a sign-extended byte, or a long (R76). -/
def takeDisp (mod : BitVec 2) (bs : List Byte) : Parsed Word :=
  if mod = 0#2 then .ok (0#32, bs)
  else if mod = 1#2 then
    parseThen (takeImm 8 bs) fun d bs =>
    .ok (d.signExtend 32, bs)
  else takeImm 32 bs

/-- The SIB byte and the displacement after it (R77). -/
def takeSib (seg : Option SReg) (mod : BitVec 2) : List Byte → Parsed MemOp
  | [] => .error .truncated
  | b :: bs =>
    let idx := if b.extractLsb' 3 3 = 4#3 then none
      else some (Reg32.ofCode (b.extractLsb' 3 3), Scale.ofCode (b.extractLsb' 6 2))
    if b.extractLsb' 0 3 = 5#3 ∧ mod = 0#2 then
      parseThen (takeImm 32 bs) fun d bs =>
      .ok ({ seg := seg, base := none, index := idx, disp := d }, bs)
    else
      parseThen (takeDisp mod bs) fun d bs =>
      .ok ({ seg := seg, base := some (Reg32.ofCode (b.extractLsb' 0 3)), index := idx, disp := d }, bs)

/-- The memory operand that `mod` (not 11) and `rm` name (R76). -/
def takeMem (seg : Option SReg) (mod : BitVec 2) (rm : BitVec 3) (bs : List Byte) : Parsed MemOp :=
  if rm = 4#3 then takeSib seg mod bs
  else if rm = 5#3 ∧ mod = 0#2 then
    parseThen (takeImm 32 bs) fun d bs =>
    .ok ({ seg := seg, base := none, index := none, disp := d }, bs)
  else
    parseThen (takeDisp mod bs) fun d bs =>
    .ok ({ seg := seg, base := some (Reg32.ofCode rm), index := none, disp := d }, bs)

/-- A ModRM byte with what follows it: the `reg` field and the `r/m` operand (R76). A segment override needs a
memory operand (R79). -/
def takeModRM (seg : Option SReg) : List Byte → Parsed (BitVec 3 × RM (BitVec 3))
  | [] => .error .truncated
  | b :: bs =>
    if b.extractLsb' 6 2 = 3#2 then
      if seg.isSome then .error .segmentNotAllowed
      else .ok ((b.extractLsb' 3 3, .reg (b.extractLsb' 0 3)), bs)
    else
      parseThen (takeMem seg (b.extractLsb' 6 2) (b.extractLsb' 0 3) bs) fun m bs =>
      .ok ((b.extractLsb' 3 3, .mem m), bs)

/-- A ModRM byte whose `r/m` operand must be in memory (R83). -/
def takeModMem (seg : Option SReg) (bs : List Byte) : Parsed (BitVec 3 × MemOp) :=
  parseThen (takeModRM seg bs) fun (g, m) bs =>
  match m with
  | .reg _ => .error .registerOperand
  | .mem m => .ok ((g, m), bs)

/-- `disp` as `mod` and the bytes after ModRM, the smallest representation first; base `%ebp` has no form without a
displacement (R76, "the assembler will choose the smallest representation"). -/
def dispMod (base : Reg32) (d : Word) : BitVec 2 :=
  if d = 0#32 ∧ base ≠ .ebp then 0#2
  else if (d.setWidth 8).signExtend 32 = d then 1#2
  else 2#2

def dispBytes (mod : BitVec 2) (d : Word) : List Byte :=
  if mod = 0#2 then [] else if mod = 1#2 then [d.setWidth 8] else immBytes d

/-- The SIB `index` and `scale` fields of an index operand; no index is `100` (R77). -/
def indexCode : Option (Reg32 × Scale) → BitVec 3
  | none => 4#3
  | some (r, _) => r.code

def scaleCode : Option (Reg32 × Scale) → BitVec 2
  | none => 0#2
  | some (_, s) => s.code

/-- ModRM, SIB and displacement of a memory operand (R76, R77). -/
def memBytes (g : BitVec 3) (m : MemOp) : List Byte :=
  match m.base with
  | none =>
    match m.index with
    | none => packFields 0#2 g 5#3 :: immBytes m.disp
    | some _ => packFields 0#2 g 4#3 :: packFields (scaleCode m.index) (indexCode m.index) 5#3 :: immBytes m.disp
  | some b =>
    let mod := dispMod b m.disp
    if m.index = none ∧ b ≠ .esp then packFields mod g b.code :: dispBytes mod m.disp
    else packFields mod g 4#3 :: packFields (scaleCode m.index) (indexCode m.index) b.code :: dispBytes mod m.disp

/-- ModRM and what follows it, for an `r/m` operand (R76). -/
def modRMBytes (g : BitVec 3) : RM (BitVec 3) → List Byte
  | .reg r => [packFields 3#2 g r]
  | .mem m => memBytes g m

/-! ### Prefixes (R79) -/

/-- The prefixes of one instruction. -/
structure Prefixes where
  op16 : Bool
  rep  : Bool
  seg  : Option SReg
  deriving DecidableEq, Repr

/-- The prefix bytes, the opcode byte after them, and the rest. -/
def takePrefixes : Prefixes → List Byte → Parsed (Prefixes × Byte)
  | _, [] => .error .truncated
  | p, b :: bs =>
    if b = 0x66#8 then
      if p.op16 then .error .repeatedPrefix else takePrefixes { p with op16 := true } bs
    else if b = 0xF3#8 then
      if p.rep then .error .repeatedPrefix else takePrefixes { p with rep := true } bs
    else if b = 0x67#8 then .error .addressSize
    else if b = 0xF0#8 then .error .lockPrefix
    else if b = 0xF2#8 then .error .repnePrefix
    else match SReg.ofOverride b with
      | some r => if p.seg.isSome then .error .repeatedPrefix else takePrefixes { p with seg := some r } bs
      | none => .ok ((p, b), bs)

/-- No `66` (the table has no `66` row for this opcode, R85). -/
def noSize {α : Type} (p : Prefixes) (x : Parsed α) : Parsed α :=
  if p.op16 then .error .opsizeNotAllowed else x

/-- No segment override (the instruction has no memory operand that takes one). -/
def noSeg {α : Type} (p : Prefixes) (x : Parsed α) : Parsed α :=
  if p.seg.isSome then .error .segmentNotAllowed else x

/-- `66` selects the word row (R78). -/
def bySize {α : Type} (p : Prefixes) (w l : Parsed α) : Parsed α := if p.op16 then w else l

/-- An instruction that took no more bytes. -/
def withRest (bs : List Byte) : Except DecodeError Instr → Parsed Instr
  | .ok i => .ok (i, bs)
  | .error e => .error e

/-- What was parsed, as an instruction or an operand form. -/
def build {α β : Type} (mk : α → β) (x : Parsed α) : Parsed β :=
  parseThen x fun a bs => .ok (mk a, bs)

/-! ### Rows that one opcode byte or extension numbers (R82) -/

/-- The ALU operation of number `k`, byte operands. -/
def aluB (k : BitVec 3) (f : AluForm Reg8 8) : Instr :=
  match k.toNat with
  | 0 => .addb f
  | 1 => .orb f
  | 2 => .adcb f
  | 3 => .sbbb f
  | 4 => .andb f
  | 5 => .subb f
  | 6 => .xorb f
  | _ => .cmpb f

/-- The ALU operation of number `k`, word operands. -/
def aluW (k : BitVec 3) (f : AluForm Reg16 16) : Instr :=
  match k.toNat with
  | 0 => .addw f
  | 1 => .orw f
  | 2 => .adcw f
  | 3 => .sbbw f
  | 4 => .andw f
  | 5 => .subw f
  | 6 => .xorw f
  | _ => .cmpw f

/-- The ALU operation of number `k`, long operands. -/
def aluL (k : BitVec 3) (f : AluForm Reg32 32) : Instr :=
  match k.toNat with
  | 0 => .addl f
  | 1 => .orl f
  | 2 => .adcl f
  | 3 => .sbbl f
  | 4 => .andl f
  | 5 => .subl f
  | 6 => .xorl f
  | _ => .cmpl f

/-- The shift of extension `/k`, byte operands. -/
def shiftB (k : BitVec 3) (f : ShiftForm Reg8) : Except DecodeError Instr :=
  match k.toNat with
  | 4 => .ok (.salb f)
  | 5 => .ok (.shrb f)
  | 7 => .ok (.sarb f)
  | _ => .error .reservedExtension

/-- The shift of extension `/k`, word operands. -/
def shiftW (k : BitVec 3) (f : ShiftForm Reg16) : Except DecodeError Instr :=
  match k.toNat with
  | 4 => .ok (.salw f)
  | 5 => .ok (.shrw f)
  | 7 => .ok (.sarw f)
  | _ => .error .reservedExtension

/-- The shift of extension `/k`, long operands. -/
def shiftL (k : BitVec 3) (f : ShiftForm Reg32) : Except DecodeError Instr :=
  match k.toNat with
  | 4 => .ok (.sall f)
  | 5 => .ok (.shrl f)
  | 7 => .ok (.sarl f)
  | _ => .error .reservedExtension

/-- The conditional jump of condition number `t` (R250). -/
def jumpIf (t : BitVec 4) (f : JumpForm) : Instr :=
  match t.toNat with
  | 0 => .jo f
  | 1 => .jno f
  | 2 => .jb f
  | 3 => .jae f
  | 4 => .je f
  | 5 => .jne f
  | 6 => .jbe f
  | 7 => .ja f
  | 8 => .js f
  | 9 => .jns f
  | 10 => .jp f
  | 11 => .jnp f
  | 12 => .jl f
  | 13 => .jge f
  | 14 => .jle f
  | _ => .jg f

/-! ### Operand forms -/

/-- Opcodes `8k+0` to `8k+5` by their number halved: `reg, r/m`; `r/m, reg`; `imm, accumulator`. -/
def takeAlu {ρ : Type} {n : Nat} (reg : BitVec 3 → ρ) (shape : Nat) (p : Prefixes) (bs : List Byte) :
    Parsed (AluForm ρ n) :=
  match shape with
  | 0 =>
    parseThen (takeModRM p.seg bs) fun (g, m) bs =>
    .ok (.regRm (reg g) (m.map reg), bs)
  | 1 =>
    parseThen (takeModRM p.seg bs) fun (g, m) bs =>
    .ok (.rmReg (m.map reg) (reg g), bs)
  | _ => noSeg p (build .immAcc (takeImm n bs))

/-- Opcodes `80`, `81`. -/
def takeAluImm {ρ : Type} {n : Nat} (reg : BitVec 3 → ρ) (mk : BitVec 3 → AluForm ρ n → Instr) (p : Prefixes)
    (bs : List Byte) : Parsed Instr :=
  parseThen (takeModRM p.seg bs) fun (g, m) bs =>
  parseThen (takeImm n bs) fun v bs =>
  .ok (mk g (.immRm v (m.map reg)), bs)

/-- Opcode `83`. -/
def takeAluImm8 {ρ : Type} {n : Nat} (reg : BitVec 3 → ρ) (mk : BitVec 3 → AluForm ρ n → Instr) (p : Prefixes)
    (bs : List Byte) : Parsed Instr :=
  parseThen (takeModRM p.seg bs) fun (g, m) bs =>
  parseThen (takeImm 8 bs) fun v bs =>
  .ok (mk g (.imm8Rm v (m.map reg)), bs)

/-- Opcodes `84`, `85`: both operand orders of `test`, read as the first (R85). -/
def takeTest {ρ : Type} {n : Nat} (reg : BitVec 3 → ρ) (mk : TestForm ρ n → Instr) (p : Prefixes) (bs : List Byte) :
    Parsed Instr :=
  parseThen (takeModRM p.seg bs) fun (g, m) bs =>
  .ok (mk (.regRm (reg g) (m.map reg)), bs)

/-- Opcodes `A8`, `A9`. -/
def takeTestAcc {ρ : Type} {n : Nat} (mk : TestForm ρ n → Instr) (p : Prefixes) (bs : List Byte) : Parsed Instr :=
  noSeg p (build (fun v => mk (.immAcc v)) (takeImm n bs))

/-- Opcodes `C0`, `C1` (`count = 0`), `D0`, `D1` (`count = 1`), `D2`, `D3` (`count = 2`). -/
def takeShift {ρ : Type} (reg : BitVec 3 → ρ) (mk : BitVec 3 → ShiftForm ρ → Except DecodeError Instr) (count : Nat)
    (p : Prefixes) (bs : List Byte) : Parsed Instr :=
  parseThen (takeModRM p.seg bs) fun (g, m) bs =>
  match count with
  | 0 =>
    parseThen (takeImm 8 bs) fun c bs =>
    withRest bs (mk g (.imm c (m.map reg)))
  | 1 => withRest bs (mk g (.one (m.map reg)))
  | _ => withRest bs (mk g (.cl (m.map reg)))

/-- Opcodes `0F A4`, `0F AC` (`cl = false`) and `0F A5`, `0F AD`. -/
def takeDShift {ρ : Type} (reg : BitVec 3 → ρ) (mk : DShiftForm ρ → Instr) (cl : Bool) (p : Prefixes) (bs : List Byte) :
    Parsed Instr :=
  parseThen (takeModRM p.seg bs) fun (g, m) bs =>
  if cl then .ok (mk (.cl (reg g) (m.map reg)), bs)
  else
    parseThen (takeImm 8 bs) fun c bs =>
    .ok (mk (.imm c (reg g) (m.map reg)), bs)

/-- The eight rows of `F6`, `F7`: `/0` is `test` with an immediate, `/1` is reserved (R83). -/
def takeGroup3 {ρ : Type} {n : Nat} (reg : BitVec 3 → ρ) (test : TestForm ρ n → Instr)
    (not neg mul imul div : RM ρ → Instr) (p : Prefixes) (bs : List Byte) : Parsed Instr :=
  parseThen (takeModRM p.seg bs) fun (g, m) bs =>
  match g.toNat with
  | 0 =>
    parseThen (takeImm n bs) fun v bs =>
    .ok (test (.immRm v (m.map reg)), bs)
  | 2 => .ok (not (m.map reg), bs)
  | 3 => .ok (neg (m.map reg), bs)
  | 4 => .ok (mul (m.map reg), bs)
  | 5 => .ok (imul (m.map reg), bs)
  | 6 => .ok (div (m.map reg), bs)
  | _ => .error .reservedExtension

/-- Opcode `FF`: `/0` `inc`, `/1` `dec`, `/6` `push`. -/
def takeGroup5 {ρ : Type} (reg : BitVec 3 → ρ) (inc dec push : RM ρ → Instr) (p : Prefixes) (bs : List Byte) :
    Parsed Instr :=
  parseThen (takeModRM p.seg bs) fun (g, m) bs =>
  match g.toNat with
  | 0 => .ok (inc (m.map reg), bs)
  | 1 => .ok (dec (m.map reg), bs)
  | 6 => .ok (push (m.map reg), bs)
  | _ => .error .reservedExtension

/-- Opcode `8F /0`. -/
def takePopRm {ρ : Type} (reg : BitVec 3 → ρ) (pop : RM ρ → Instr) (p : Prefixes) (bs : List Byte) : Parsed Instr :=
  parseThen (takeModRM p.seg bs) fun (g, m) bs =>
  if g = 0#3 then .ok (pop (m.map reg), bs) else .error .reservedExtension

/-- Opcode `0F AF`. -/
def takeImul2 {ρ : Type} {n : Nat} (reg : BitVec 3 → ρ) (mk : ImulForm ρ n → Instr) (p : Prefixes) (bs : List Byte) :
    Parsed Instr :=
  parseThen (takeModRM p.seg bs) fun (g, m) bs =>
  .ok (mk (.two (m.map reg) (reg g)), bs)

/-- Opcode `69`. -/
def takeImul3 {ρ : Type} {n : Nat} (reg : BitVec 3 → ρ) (mk : ImulForm ρ n → Instr) (p : Prefixes) (bs : List Byte) :
    Parsed Instr :=
  parseThen (takeModRM p.seg bs) fun (g, m) bs =>
  parseThen (takeImm n bs) fun v bs =>
  .ok (mk (.three v (m.map reg) (reg g)), bs)

/-- Opcode `6B`. -/
def takeImul3Short {ρ : Type} {n : Nat} (reg : BitVec 3 → ρ) (mk : ImulForm ρ n → Instr) (p : Prefixes)
    (bs : List Byte) : Parsed Instr :=
  parseThen (takeModRM p.seg bs) fun (g, m) bs =>
  parseThen (takeImm 8 bs) fun v bs =>
  .ok (mk (.three8 v (m.map reg) (reg g)), bs)

/-- A full-pointer load, or `bound`: a memory operand and a register (R100, R212). -/
def takeMemReg {ρ : Type} (reg : BitVec 3 → ρ) (mk : MemOp → ρ → Instr) (p : Prefixes) (bs : List Byte) :
    Parsed Instr :=
  parseThen (takeModMem p.seg bs) fun (g, m) bs =>
  .ok (mk m (reg g), bs)

/-- An instruction that is its opcode alone. -/
def justOpcode (i : Instr) (p : Prefixes) (bs : List Byte) : Parsed Instr := noSeg p (.ok (i, bs))

/-- `imm8` port forms of `in`, `out`. -/
def takePort (mk : PortForm → Instr) (p : Prefixes) (bs : List Byte) : Parsed Instr :=
  noSeg p (build (fun b => mk (.imm8 b)) (takeImm 8 bs))

/-! ### The opcode map (R82) -/

/-- Opcodes `00` to `3F`: the ALU block, and `push`, `pop` of `%es`, `%cs`, `%ss`, `%ds`. -/
def decodeAluBlock (p : Prefixes) (b : Byte) (bs : List Byte) : Parsed Instr :=
  let k := b.extractLsb' 3 3
  let low := (b.extractLsb' 0 3).toNat
  if low < 6 then
    if low % 2 = 0 then build (aluB k) (takeAlu Reg8.ofCode (low / 2) p bs)
    else bySize p (build (aluW k) (takeAlu Reg16.ofCode (low / 2) p bs))
      (build (aluL k) (takeAlu Reg32.ofCode (low / 2) p bs))
  else noSize p
    (if b = 0x06#8 then justOpcode (.pushl (.sreg .es)) p bs
    else if b = 0x07#8 then justOpcode (.popl (.sreg .es)) p bs
    else if b = 0x0E#8 then justOpcode (.pushl (.sreg .cs)) p bs
    else if b = 0x16#8 then justOpcode (.pushl (.sreg .ss)) p bs
    else if b = 0x17#8 then justOpcode (.popl (.sreg .ss)) p bs
    else if b = 0x1E#8 then justOpcode (.pushl (.sreg .ds)) p bs
    else if b = 0x1F#8 then justOpcode (.popl (.sreg .ds)) p bs
    else .error .unknownOpcode)

/-- Opcodes `40` to `5F`: `inc`, `dec`, `push`, `pop` of a register. -/
def decodeRegBlock (p : Prefixes) (b : Byte) (bs : List Byte) : Parsed Instr :=
  let r := b.extractLsb' 0 3
  let word := Reg16.ofCode r
  let long := Reg32.ofCode r
  if b.toNat < 0x48 then bySize p (justOpcode (.incw (.reg word)) p bs) (justOpcode (.incl (.reg long)) p bs)
  else if b.toNat < 0x50 then bySize p (justOpcode (.decw (.reg word)) p bs) (justOpcode (.decl (.reg long)) p bs)
  else if b.toNat < 0x58 then bySize p (justOpcode (.pushw (.reg word)) p bs) (justOpcode (.pushl (.reg long)) p bs)
  else bySize p (justOpcode (.popw (.reg word)) p bs) (justOpcode (.popl (.reg long)) p bs)

/-- Opcodes `60` to `8F`. -/
def decodeMiddle (p : Prefixes) (b : Byte) (bs : List Byte) : Parsed Instr :=
  if b = 0x62#8 then
    bySize p (takeMemReg Reg16.ofCode (fun m r => .boundw r m) p bs) (takeMemReg Reg32.ofCode (fun m r => .boundl r m) p bs)
  else if b = 0x68#8 then
    noSeg p (bySize p (build (fun v => .pushw (.imm v)) (takeImm 16 bs)) (build (fun v => .pushl (.imm v)) (takeImm 32 bs)))
  else if b = 0x69#8 then bySize p (takeImul3 Reg16.ofCode .imulw p bs) (takeImul3 Reg32.ofCode .imull p bs)
  else if b = 0x6A#8 then
    noSeg p (bySize p (build (fun v => .pushw (.imm8 v)) (takeImm 8 bs)) (build (fun v => .pushl (.imm8 v)) (takeImm 8 bs)))
  else if b = 0x6B#8 then bySize p (takeImul3Short Reg16.ofCode .imulw p bs) (takeImul3Short Reg32.ofCode .imull p bs)
  else if b = 0x6C#8 then justOpcode (if p.rep then .rep_insb else .insb) p bs
  else if b = 0x6D#8 then
    bySize p (justOpcode (if p.rep then .rep_insw else .insw) p bs) (justOpcode (if p.rep then .rep_insl else .insl) p bs)
  else if b = 0x6E#8 then .ok (if p.rep then .rep_outsb p.seg else .outsb p.seg, bs)
  else if b = 0x6F#8 then
    bySize p (.ok (if p.rep then .rep_outsw p.seg else .outsw p.seg, bs))
      (.ok (if p.rep then .rep_outsl p.seg else .outsl p.seg, bs))
  else if b.extractLsb' 4 4 = 7#4 then
    noSize p (noSeg p (build (fun d => jumpIf (b.extractLsb' 0 4) (.disp8 d)) (takeImm 8 bs)))
  else if b = 0x80#8 then takeAluImm Reg8.ofCode aluB p bs
  else if b = 0x81#8 then bySize p (takeAluImm Reg16.ofCode aluW p bs) (takeAluImm Reg32.ofCode aluL p bs)
  else if b = 0x83#8 then bySize p (takeAluImm8 Reg16.ofCode aluW p bs) (takeAluImm8 Reg32.ofCode aluL p bs)
  else if b = 0x84#8 then takeTest Reg8.ofCode .testb p bs
  else if b = 0x85#8 then bySize p (takeTest Reg16.ofCode .testw p bs) (takeTest Reg32.ofCode .testl p bs)
  else if b = 0x8F#8 then
    bySize p (takePopRm Reg16.ofCode (fun m => .popw (.rm m)) p bs) (takePopRm Reg32.ofCode (fun m => .popl (.rm m)) p bs)
  else .error .unknownOpcode

/-- Opcodes `90` to `DF`. -/
def decodeUpper (p : Prefixes) (b : Byte) (bs : List Byte) : Parsed Instr :=
  if b = 0x9C#8 then bySize p (justOpcode .pushfw p bs) (justOpcode .pushfl p bs)
  else if b = 0x9D#8 then bySize p (justOpcode .popfw p bs) (justOpcode .popfl p bs)
  else if b = 0x9E#8 then noSize p (justOpcode .sahf p bs)
  else if b = 0x9F#8 then noSize p (justOpcode .lahf p bs)
  else if b = 0xA8#8 then takeTestAcc .testb p bs
  else if b = 0xA9#8 then bySize p (takeTestAcc .testw p bs) (takeTestAcc .testl p bs)
  else if b = 0xC0#8 then takeShift Reg8.ofCode shiftB 0 p bs
  else if b = 0xC1#8 then bySize p (takeShift Reg16.ofCode shiftW 0 p bs) (takeShift Reg32.ofCode shiftL 0 p bs)
  else if b = 0xC4#8 then bySize p (takeMemReg Reg16.ofCode .lesw p bs) (takeMemReg Reg32.ofCode .lesl p bs)
  else if b = 0xC5#8 then bySize p (takeMemReg Reg16.ofCode .ldsw p bs) (takeMemReg Reg32.ofCode .ldsl p bs)
  else if b = 0xD0#8 then takeShift Reg8.ofCode shiftB 1 p bs
  else if b = 0xD1#8 then bySize p (takeShift Reg16.ofCode shiftW 1 p bs) (takeShift Reg32.ofCode shiftL 1 p bs)
  else if b = 0xD2#8 then takeShift Reg8.ofCode shiftB 2 p bs
  else if b = 0xD3#8 then bySize p (takeShift Reg16.ofCode shiftW 2 p bs) (takeShift Reg32.ofCode shiftL 2 p bs)
  else .error .unknownOpcode

/-- Opcodes `E0` to `FF`. -/
def decodeTop (p : Prefixes) (b : Byte) (bs : List Byte) : Parsed Instr :=
  if b = 0xE4#8 then takePort .inb p bs
  else if b = 0xE5#8 then bySize p (takePort .inw p bs) (takePort .inl p bs)
  else if b = 0xE6#8 then takePort .outb p bs
  else if b = 0xE7#8 then bySize p (takePort .outw p bs) (takePort .outl p bs)
  else if b = 0xE9#8 then noSize p (noSeg p (build (fun d => .jmp (.disp32 d)) (takeImm 32 bs)))
  else if b = 0xEB#8 then noSize p (noSeg p (build (fun d => .jmp (.disp8 d)) (takeImm 8 bs)))
  else if b = 0xEC#8 then justOpcode (.inb .dx) p bs
  else if b = 0xED#8 then bySize p (justOpcode (.inw .dx) p bs) (justOpcode (.inl .dx) p bs)
  else if b = 0xEE#8 then justOpcode (.outb .dx) p bs
  else if b = 0xEF#8 then bySize p (justOpcode (.outw .dx) p bs) (justOpcode (.outl .dx) p bs)
  else if b = 0xF5#8 then noSize p (justOpcode .cmc p bs)
  else if b = 0xF6#8 then takeGroup3 Reg8.ofCode .testb .notb .negb .mulb .imulb .divb p bs
  else if b = 0xF7#8 then
    bySize p (takeGroup3 Reg16.ofCode .testw .notw .negw .mulw (fun m => .imulw (.one m)) .divw p bs)
      (takeGroup3 Reg32.ofCode .testl .notl .negl .mull (fun m => .imull (.one m)) .divl p bs)
  else if b = 0xF8#8 then noSize p (justOpcode .clc p bs)
  else if b = 0xF9#8 then noSize p (justOpcode .stc p bs)
  else if b = 0xFA#8 then noSize p (justOpcode .cli p bs)
  else if b = 0xFB#8 then noSize p (justOpcode .sti p bs)
  else if b = 0xFC#8 then noSize p (justOpcode .cld p bs)
  else if b = 0xFD#8 then noSize p (justOpcode .std p bs)
  else if b = 0xFE#8 then
    parseThen (takeModRM p.seg bs) fun (g, m) bs =>
    match g.toNat with
    | 0 => .ok (.incb (m.map Reg8.ofCode), bs)
    | 1 => .ok (.decb (m.map Reg8.ofCode), bs)
    | _ => .error .reservedExtension
  else if b = 0xFF#8 then
    bySize p
      (takeGroup5 Reg16.ofCode (fun m => .incw (.rm m)) (fun m => .decw (.rm m)) (fun m => .pushw (.rm m)) p bs)
      (takeGroup5 Reg32.ofCode (fun m => .incl (.rm m)) (fun m => .decl (.rm m)) (fun m => .pushl (.rm m)) p bs)
  else .error .unknownOpcode

/-- Opcodes `0F xx`. -/
def decodeTwoByte (p : Prefixes) (b : Byte) (bs : List Byte) : Parsed Instr :=
  if b.extractLsb' 4 4 = 8#4 then
    noSize p (noSeg p (build (fun d => jumpIf (b.extractLsb' 0 4) (.disp32 d)) (takeImm 32 bs)))
  else if b = 0xA0#8 then noSize p (justOpcode (.pushl (.sreg .fs)) p bs)
  else if b = 0xA1#8 then noSize p (justOpcode (.popl (.sreg .fs)) p bs)
  else if b = 0xA8#8 then noSize p (justOpcode (.pushl (.sreg .gs)) p bs)
  else if b = 0xA9#8 then noSize p (justOpcode (.popl (.sreg .gs)) p bs)
  else if b = 0xA4#8 then bySize p (takeDShift Reg16.ofCode .shldw false p bs) (takeDShift Reg32.ofCode .shldl false p bs)
  else if b = 0xA5#8 then bySize p (takeDShift Reg16.ofCode .shldw true p bs) (takeDShift Reg32.ofCode .shldl true p bs)
  else if b = 0xAC#8 then bySize p (takeDShift Reg16.ofCode .shrdw false p bs) (takeDShift Reg32.ofCode .shrdl false p bs)
  else if b = 0xAD#8 then bySize p (takeDShift Reg16.ofCode .shrdw true p bs) (takeDShift Reg32.ofCode .shrdl true p bs)
  else if b = 0xAF#8 then bySize p (takeImul2 Reg16.ofCode .imulw p bs) (takeImul2 Reg32.ofCode .imull p bs)
  else if b = 0xB2#8 then bySize p (takeMemReg Reg16.ofCode .lssw p bs) (takeMemReg Reg32.ofCode .lssl p bs)
  else if b = 0xB4#8 then bySize p (takeMemReg Reg16.ofCode .lfsw p bs) (takeMemReg Reg32.ofCode .lfsl p bs)
  else if b = 0xB5#8 then bySize p (takeMemReg Reg16.ofCode .lgsw p bs) (takeMemReg Reg32.ofCode .lgsl p bs)
  else .error .unknownOpcode

/-- The opcode bytes that `F3` may stand before (R79). -/
def isStringOpcode (b : Byte) : Bool := b.extractLsb' 2 6 == 0x1B#6

/-- The instruction after the prefixes, by its first opcode byte. -/
def decodeOpcode (p : Prefixes) (b : Byte) (bs : List Byte) : Parsed Instr :=
  if p.rep && !isStringOpcode b then .error .repNotAllowed
  else if b = 0x0F#8 then
    match bs with
    | [] => .error .truncated
    | b2 :: bs => decodeTwoByte p b2 bs
  else if b.toNat < 0x40 then decodeAluBlock p b bs
  else if b.toNat < 0x60 then decodeRegBlock p b bs
  else if b.toNat < 0x90 then decodeMiddle p b bs
  else if b.toNat < 0xE0 then decodeUpper p b bs
  else decodeTop p b bs

/-- The instruction the bytes begin with and its length `len` in bytes (R81), or why there is none. -/
def decode (bs : List Byte) : Except DecodeError (Instr × Nat) :=
  match parseThen (takePrefixes { op16 := false, rep := false, seg := none } bs)
      (fun (p, b) rest => decodeOpcode p b rest) with
  | .ok (i, rest) => .ok (i, bs.length - rest.length)
  | .error e => .error e

/-! ### The encoder, from the same tables -/

/-- The operand size of a row: how `66` and bit 0 of the opcode say it (R78). -/
inductive OpSize where
  | byte | word | long
  deriving DecidableEq, Repr

def OpSize.prefixBytes : OpSize → List Byte
  | .word => [0x66#8]
  | _ => []

def OpSize.bit : OpSize → Byte
  | .byte => 0#8
  | _ => 1#8

def segBytes : Option SReg → List Byte
  | none => []
  | some r => [r.overrideByte]

/-- The override bytes of an `r/m` operand. -/
def RM.segBytes {ρ : Type} : RM ρ → List Byte
  | .reg _ => []
  | .mem m => Sys2Proof.segBytes m.seg

/-- A row with a ModRM byte: prefixes, opcode, ModRM with `reg` field `g`, immediate (R75). -/
def encRM (sz : OpSize) (opcode : List Byte) (g : BitVec 3) (m : RM (BitVec 3)) (imm : List Byte) : List Byte :=
  m.segBytes ++ sz.prefixBytes ++ opcode ++ modRMBytes g m ++ imm

/-- A row without one. -/
def encPlain (sz : OpSize) (opcode : List Byte) (imm : List Byte) : List Byte := sz.prefixBytes ++ opcode ++ imm

/-- The rows of ALU operation `k` (R82). -/
def encAlu {ρ : Type} {n : Nat} (sz : OpSize) (code : ρ → BitVec 3) (k : BitVec 3) : AluForm ρ n → List Byte
  | .regRm r m => encRM sz [packFields 0#2 k 0#3 + sz.bit] (code r) (m.map code) []
  | .rmReg m r => encRM sz [packFields 0#2 k 2#3 + sz.bit] (code r) (m.map code) []
  | .immAcc v => encPlain sz [packFields 0#2 k 4#3 + sz.bit] (immBytes v)
  | .immRm v m => encRM sz [0x80#8 + sz.bit] k (m.map code) (immBytes v)
  | .imm8Rm v m => encRM sz [0x83#8] k (m.map code) [v]

def encTest {ρ : Type} {n : Nat} (sz : OpSize) (code : ρ → BitVec 3) : TestForm ρ n → List Byte
  | .regRm r m => encRM sz [0x84#8 + sz.bit] (code r) (m.map code) []
  | .rmReg m r => encRM sz [0x84#8 + sz.bit] (code r) (m.map code) []
  | .immAcc v => encPlain sz [0xA8#8 + sz.bit] (immBytes v)
  | .immRm v m => encRM sz [0xF6#8 + sz.bit] 0#3 (m.map code) (immBytes v)

/-- `FE`/`FF` with extension `k`, and the short form `40+r`, `48+r`. -/
def encInc {ρ : Type} (sz : OpSize) (code : ρ → BitVec 3) (k : BitVec 3) : IncForm ρ → List Byte
  | .rm m => encRM sz [0xFE#8 + sz.bit] k (m.map code) []
  | .reg r => encPlain sz [packFields 1#2 k (code r)] []

def encShift {ρ : Type} (sz : OpSize) (code : ρ → BitVec 3) (k : BitVec 3) : ShiftForm ρ → List Byte
  | .imm c m => encRM sz [0xC0#8 + sz.bit] k (m.map code) [c]
  | .one m => encRM sz [0xD0#8 + sz.bit] k (m.map code) []
  | .cl m => encRM sz [0xD2#8 + sz.bit] k (m.map code) []

/-- `op` is the second opcode byte of the immediate form; the `%cl` form is the next. -/
def encDShift {ρ : Type} (sz : OpSize) (code : ρ → BitVec 3) (op : Byte) : DShiftForm ρ → List Byte
  | .imm c r m => encRM sz [0x0F#8, op] (code r) (m.map code) [c]
  | .cl r m => encRM sz [0x0F#8, op + 1#8] (code r) (m.map code) []

def encImul {ρ : Type} {n : Nat} (sz : OpSize) (code : ρ → BitVec 3) : ImulForm ρ n → List Byte
  | .one m => encRM sz [0xF7#8] 5#3 (m.map code) []
  | .two m r => encRM sz [0x0F#8, 0xAF#8] (code r) (m.map code) []
  | .three8 v m r => encRM sz [0x6B#8] (code r) (m.map code) [v]
  | .three v m r => encRM sz [0x69#8] (code r) (m.map code) (immBytes v)

/-- `F6`/`F7` with extension `k`. -/
def encGroup3 {ρ : Type} (sz : OpSize) (code : ρ → BitVec 3) (k : BitVec 3) (m : RM ρ) : List Byte :=
  encRM sz [0xF6#8 + sz.bit] k (m.map code) []

def encMemReg {ρ : Type} (sz : OpSize) (opcode : List Byte) (code : ρ → BitVec 3) (m : MemOp) (r : ρ) : List Byte :=
  encRM sz opcode (code r) (.mem m) []

/-- `pop` of a segment register; `%cs` has no row and no bytes (R107). -/
def encPopSeg : SReg → List Byte
  | .es => [0x07#8]
  | .cs => []
  | .ss => [0x17#8]
  | .ds => [0x1F#8]
  | .fs => [0x0F#8, 0xA1#8]
  | .gs => [0x0F#8, 0xA9#8]

def encPushSeg : SReg → List Byte
  | .es => [0x06#8]
  | .cs => [0x0E#8]
  | .ss => [0x16#8]
  | .ds => [0x1E#8]
  | .fs => [0x0F#8, 0xA0#8]
  | .gs => [0x0F#8, 0xA8#8]

def encPop : PopForm → List Byte
  | .reg r => encPlain .word [packFields 1#2 3#3 r.code] []
  | .rm m => encRM .word [0x8F#8] 0#3 (m.map Reg16.code) []

def encPopLong : PopLongForm → List Byte
  | .reg r => encPlain .long [packFields 1#2 3#3 r.code] []
  | .rm m => encRM .long [0x8F#8] 0#3 (m.map Reg32.code) []
  | .sreg r => encPopSeg r

def encPush : PushForm → List Byte
  | .reg r => encPlain .word [packFields 1#2 2#3 r.code] []
  | .rm m => encRM .word [0xFF#8] 6#3 (m.map Reg16.code) []
  | .imm8 v => encPlain .word [0x6A#8] [v]
  | .imm v => encPlain .word [0x68#8] (immBytes v)

def encPushLong : PushLongForm → List Byte
  | .reg r => encPlain .long [packFields 1#2 2#3 r.code] []
  | .rm m => encRM .long [0xFF#8] 6#3 (m.map Reg32.code) []
  | .imm8 v => encPlain .long [0x6A#8] [v]
  | .imm v => encPlain .long [0x68#8] (immBytes v)
  | .sreg r => encPushSeg r

/-- `op` is the opcode of the immediate form; the `(%dx)` form is 8 above it. -/
def encPort (sz : OpSize) (op : Byte) : PortForm → List Byte
  | .imm8 v => encPlain sz [op + sz.bit] [v]
  | .dx => encPlain sz [op + 8#8 + sz.bit] []

def encJcc (t : BitVec 4) : JumpForm → List Byte
  | .disp8 d => [7#4 ++ t, d]
  | .disp32 d => 0x0F#8 :: (8#4 ++ t) :: immBytes d

def encJmp : JumpForm → List Byte
  | .disp8 d => [0xEB#8, d]
  | .disp32 d => 0xE9#8 :: immBytes d

/-- The words of an instruction, in the smallest displacement form (R81). -/
def encode : Instr → List Byte
  | .ldsw m r => encMemReg .word [0xC5#8] Reg16.code m r
  | .ldsl m r => encMemReg .long [0xC5#8] Reg32.code m r
  | .lesw m r => encMemReg .word [0xC4#8] Reg16.code m r
  | .lesl m r => encMemReg .long [0xC4#8] Reg32.code m r
  | .lfsw m r => encMemReg .word [0x0F#8, 0xB4#8] Reg16.code m r
  | .lfsl m r => encMemReg .long [0x0F#8, 0xB4#8] Reg32.code m r
  | .lgsw m r => encMemReg .word [0x0F#8, 0xB5#8] Reg16.code m r
  | .lgsl m r => encMemReg .long [0x0F#8, 0xB5#8] Reg32.code m r
  | .lssw m r => encMemReg .word [0x0F#8, 0xB2#8] Reg16.code m r
  | .lssl m r => encMemReg .long [0x0F#8, 0xB2#8] Reg32.code m r
  | .popw f => encPop f
  | .popl f => encPopLong f
  | .pop r => encPopSeg r
  | .pushw f => encPush f
  | .pushl f => encPushLong f
  | .push r => encPushSeg r
  | .inb f => encPort .byte 0xE4#8 f
  | .inw f => encPort .word 0xE4#8 f
  | .inl f => encPort .long 0xE4#8 f
  | .insb => encPlain .byte [0x6C#8] []
  | .rep_insb => 0xF3#8 :: encPlain .byte [0x6C#8] []
  | .insw => encPlain .word [0x6D#8] []
  | .rep_insw => 0xF3#8 :: encPlain .word [0x6D#8] []
  | .insl => encPlain .long [0x6D#8] []
  | .rep_insl => 0xF3#8 :: encPlain .long [0x6D#8] []
  | .outb f => encPort .byte 0xE6#8 f
  | .outw f => encPort .word 0xE6#8 f
  | .outl f => encPort .long 0xE6#8 f
  | .outsb g => segBytes g ++ encPlain .byte [0x6E#8] []
  | .rep_outsb g => segBytes g ++ 0xF3#8 :: encPlain .byte [0x6E#8] []
  | .outsw g => segBytes g ++ encPlain .word [0x6F#8] []
  | .rep_outsw g => segBytes g ++ 0xF3#8 :: encPlain .word [0x6F#8] []
  | .outsl g => segBytes g ++ encPlain .long [0x6F#8] []
  | .rep_outsl g => segBytes g ++ 0xF3#8 :: encPlain .long [0x6F#8] []
  | .lahf => [0x9F#8]
  | .sahf => [0x9E#8]
  | .cmc => [0xF5#8]
  | .clc => [0xF8#8]
  | .stc => [0xF9#8]
  | .cli => [0xFA#8]
  | .sti => [0xFB#8]
  | .cld => [0xFC#8]
  | .std => [0xFD#8]
  | .popfw => encPlain .word [0x9D#8] []
  | .popfl => encPlain .long [0x9D#8] []
  | .pushfw => encPlain .word [0x9C#8] []
  | .pushfl => encPlain .long [0x9C#8] []
  | .addb f => encAlu .byte Reg8.code 0#3 f
  | .addw f => encAlu .word Reg16.code 0#3 f
  | .addl f => encAlu .long Reg32.code 0#3 f
  | .orb f => encAlu .byte Reg8.code 1#3 f
  | .orw f => encAlu .word Reg16.code 1#3 f
  | .orl f => encAlu .long Reg32.code 1#3 f
  | .adcb f => encAlu .byte Reg8.code 2#3 f
  | .adcw f => encAlu .word Reg16.code 2#3 f
  | .adcl f => encAlu .long Reg32.code 2#3 f
  | .sbbb f => encAlu .byte Reg8.code 3#3 f
  | .sbbw f => encAlu .word Reg16.code 3#3 f
  | .sbbl f => encAlu .long Reg32.code 3#3 f
  | .andb f => encAlu .byte Reg8.code 4#3 f
  | .andw f => encAlu .word Reg16.code 4#3 f
  | .andl f => encAlu .long Reg32.code 4#3 f
  | .subb f => encAlu .byte Reg8.code 5#3 f
  | .subw f => encAlu .word Reg16.code 5#3 f
  | .subl f => encAlu .long Reg32.code 5#3 f
  | .xorb f => encAlu .byte Reg8.code 6#3 f
  | .xorw f => encAlu .word Reg16.code 6#3 f
  | .xorl f => encAlu .long Reg32.code 6#3 f
  | .cmpb f => encAlu .byte Reg8.code 7#3 f
  | .cmpw f => encAlu .word Reg16.code 7#3 f
  | .cmpl f => encAlu .long Reg32.code 7#3 f
  | .incb m => encInc .byte Reg8.code 0#3 (.rm m)
  | .incw f => encInc .word Reg16.code 0#3 f
  | .incl f => encInc .long Reg32.code 0#3 f
  | .decb m => encInc .byte Reg8.code 1#3 (.rm m)
  | .decw f => encInc .word Reg16.code 1#3 f
  | .decl f => encInc .long Reg32.code 1#3 f
  | .testb f => encTest .byte Reg8.code f
  | .testw f => encTest .word Reg16.code f
  | .testl f => encTest .long Reg32.code f
  | .salb f => encShift .byte Reg8.code 4#3 f
  | .salw f => encShift .word Reg16.code 4#3 f
  | .sall f => encShift .long Reg32.code 4#3 f
  | .shlb f => encShift .byte Reg8.code 4#3 f
  | .shlw f => encShift .word Reg16.code 4#3 f
  | .shll f => encShift .long Reg32.code 4#3 f
  | .shrb f => encShift .byte Reg8.code 5#3 f
  | .shrw f => encShift .word Reg16.code 5#3 f
  | .shrl f => encShift .long Reg32.code 5#3 f
  | .sarb f => encShift .byte Reg8.code 7#3 f
  | .sarw f => encShift .word Reg16.code 7#3 f
  | .sarl f => encShift .long Reg32.code 7#3 f
  | .shldw f => encDShift .word Reg16.code 0xA4#8 f
  | .shldl f => encDShift .long Reg32.code 0xA4#8 f
  | .shrdw f => encDShift .word Reg16.code 0xAC#8 f
  | .shrdl f => encDShift .long Reg32.code 0xAC#8 f
  | .notb m => encGroup3 .byte Reg8.code 2#3 m
  | .notw m => encGroup3 .word Reg16.code 2#3 m
  | .notl m => encGroup3 .long Reg32.code 2#3 m
  | .negb m => encGroup3 .byte Reg8.code 3#3 m
  | .negw m => encGroup3 .word Reg16.code 3#3 m
  | .negl m => encGroup3 .long Reg32.code 3#3 m
  | .mulb m => encGroup3 .byte Reg8.code 4#3 m
  | .mulw m => encGroup3 .word Reg16.code 4#3 m
  | .mull m => encGroup3 .long Reg32.code 4#3 m
  | .mul m => encGroup3 .long Reg32.code 4#3 m
  | .imulb m => encGroup3 .byte Reg8.code 5#3 m
  | .imulw f => encImul .word Reg16.code f
  | .imull f => encImul .long Reg32.code f
  | .imul f => encImul .long Reg32.code f
  | .divb m => encGroup3 .byte Reg8.code 6#3 m
  | .divw m => encGroup3 .word Reg16.code 6#3 m
  | .divl m => encGroup3 .long Reg32.code 6#3 m
  | .div m => encGroup3 .long Reg32.code 6#3 m
  | .boundw r m => encMemReg .word [0x62#8] Reg16.code m r
  | .boundl r m => encMemReg .long [0x62#8] Reg32.code m r
  | .jmp f => encJmp f
  | .jo f => encJcc 0#4 f
  | .jno f => encJcc 1#4 f
  | .jb f => encJcc 2#4 f
  | .jc f => encJcc 2#4 f
  | .jnae f => encJcc 2#4 f
  | .jae f => encJcc 3#4 f
  | .jnb f => encJcc 3#4 f
  | .jnc f => encJcc 3#4 f
  | .je f => encJcc 4#4 f
  | .jz f => encJcc 4#4 f
  | .jne f => encJcc 5#4 f
  | .jnz f => encJcc 5#4 f
  | .jbe f => encJcc 6#4 f
  | .jna f => encJcc 6#4 f
  | .ja f => encJcc 7#4 f
  | .jnbe f => encJcc 7#4 f
  | .js f => encJcc 8#4 f
  | .jns f => encJcc 9#4 f
  | .jp f => encJcc 10#4 f
  | .jpe f => encJcc 10#4 f
  | .jnp f => encJcc 11#4 f
  | .jpo f => encJcc 11#4 f
  | .jl f => encJcc 12#4 f
  | .jnge f => encJcc 12#4 f
  | .jge f => encJcc 13#4 f
  | .jnl f => encJcc 13#4 f
  | .jle f => encJcc 14#4 f
  | .jng f => encJcc 14#4 f
  | .jg f => encJcc 15#4 f
  | .jnle f => encJcc 15#4 f

/-- `test r/m, reg` is spelled as `test reg, r/m` (R168: "the first two shapes denote the same operation"). -/
def TestForm.canon {ρ : Type} {n : Nat} : TestForm ρ n → TestForm ρ n
  | .rmReg m r => .regRm r m
  | f => f

/-- The spelling the decoder answers: of the mnemonics and forms that share their words, the first of the table
(R74, R85; log 21). -/
def Instr.canon : Instr → Instr
  | .pop r => .popl (.sreg r)
  | .push r => .pushl (.sreg r)
  | .testb f => .testb f.canon
  | .testw f => .testw f.canon
  | .testl f => .testl f.canon
  | .shlb f => .salb f
  | .shlw f => .salw f
  | .shll f => .sall f
  | .mul m => .mull m
  | .imul f => .imull f
  | .div m => .divl m
  | .jc f => .jb f
  | .jnae f => .jb f
  | .jnb f => .jae f
  | .jnc f => .jae f
  | .jz f => .je f
  | .jnz f => .jne f
  | .jna f => .jbe f
  | .jnbe f => .ja f
  | .jpe f => .jp f
  | .jpo f => .jnp f
  | .jnge f => .jl f
  | .jnl f => .jge f
  | .jng f => .jle f
  | .jnle f => .jg f
  | i => i

/-! ### The host's view of one row's words -/

/-- The longest instruction: one segment override, one opcode byte, ModRM, SIB, disp32, imm32 (R75 allows 15; no row
reaches it since each prefix may stand once). -/
def maxInstrBytes : Nat := 12

/-- The bytes of an instruction whose bits are `w`, bit 0 the least significant of the first byte; every bit above
`nbits` is 0. -/
def tableBytes (nbits w : Nat) : List Byte := leBytes maxInstrBytes (w % 2 ^ nbits)

/-- The instruction the decoder reads from a row's words. -/
def decodeTableWord (nbits w : Nat) : Option Instr :=
  match decode (tableBytes nbits w) with
  | .ok (i, _) => some i
  | .error _ => none

end Sys2Proof
end

