-- ==== Sys2Proof/Machine/State.lean ====
section
/-! DEFINITION. The state of the machine as plain data, the ways a step can stop, and the state after reset.
INVENTORY.md's "State" section lists every field with its rule. -/

namespace Sys2Proof.Machine

/-- The eight general registers (`10_state.md` R20); the 16- and 8-bit names are parts of them (R21). -/
structure Gpr where
  eax : Word
  ecx : Word
  edx : Word
  ebx : Word
  esp : Word
  ebp : Word
  esi : Word
  edi : Word
  deriving DecidableEq, Repr

/-- EFLAGS, flag by flag (`10_state.md` R25). Reserved bits are no state: they are drawn when read and ignored when
written. -/
structure Flags where
  cf   : Bool
  pf   : Bool
  af   : Bool
  zf   : Bool
  sf   : Bool
  tf   : Bool
  intf : Bool
  df   : Bool
  of   : Bool
  iopl : BitVec 2
  nt   : Bool
  rf   : Bool
  vm   : Bool
  ac   : Bool
  deriving DecidableEq, Repr

/-- The six segment selectors (`10_state.md` R28). -/
structure SegRegs where
  es : Half
  cs : Half
  ss : Half
  ds : Half
  fs : Half
  gs : Half
  deriving DecidableEq, Repr

/-- The system and floating-point registers the spec names and no in-scope instruction reaches (`10_state.md` R29 to
R32). PRESUMED widths (log 3). -/
structure SysRegs where
  cr0 : Word
  cr2 : Word
  cr3 : Word
  cr4 : Word
  db0 : Word
  db1 : Word
  db2 : Word
  db3 : Word
  db6 : Word
  db7 : Word
  tr6 : Word
  tr7 : Word
  st0 : BitVec 80
  st1 : BitVec 80
  st2 : BitVec 80
  st3 : BitVec 80
  st4 : BitVec 80
  st5 : BitVec 80
  st6 : BitVec 80
  st7 : BitVec 80
  deriving DecidableEq, Repr

/-- `SegBase(sreg)` (`60_exceptions.md` R274). -/
structure SegBases where
  es : Word
  cs : Word
  ss : Word
  ds : Word
  fs : Word
  gs : Word
  deriving DecidableEq, Repr

/-- `size` consecutive addresses or port numbers from `base`. -/
structure Range where
  base : Nat
  size : Nat
  deriving DecidableEq, Repr

/-- The launch parameters of a run (`70_reset_and_hazards.md` R291), fixed for the run and held as data so that a
claim quantifies over them. -/
structure Platform where
  /-- `SegBase` (R274; log 11). -/
  segBase : SegBases
  /-- The linear addresses `MemAdmit` does not admit for reading (R272; log 8). -/
  noRead : List Range
  /-- The linear addresses `MemAdmit` does not admit for writing (R272; log 8). -/
  noWrite : List Range
  /-- The ports `IOBitmapAllows` allows (R271; log 10). -/
  ioAllowed : List Range
  /-- The selectors `SelectorLoadable` refuses for a register, beside the null selector in `%ss` (R273; log 9). -/
  unloadable : List (SReg × Half)
  /-- The linear addresses of the program text (`20_memory.md` R64; log 12). -/
  text : Range
  /-- `END` (`70_reset_and_hazards.md` R293; log 13). -/
  endPc : Option Word
  deriving DecidableEq, Repr

/-- Memory: address and byte pairs, addresses strictly rising, no entry equal to what an unlisted address reads as
(`20_memory.md` R36, R52). -/
abbrev Memory := List Host.Cell

/-- The whole state of a run. -/
structure State where
  gpr    : Gpr
  /-- EIP: the offset in the code segment of the instruction being executed (R24). -/
  pc     : Word
  flags  : Flags
  seg    : SegRegs
  /-- The current privilege level (R33). -/
  cpl    : BitVec 2
  sys    : SysRegs
  mem    : Memory
  /-- The interrupt shadow after `sti` and `%ss` loads (R35; log 16). -/
  shadow : Bool
  /-- The port event history, oldest first (R60). -/
  portLog : List PortEvent
  /-- What `PortOracle` answers to the port reads to come, oldest first (R60; log 7). -/
  portAnswers : List Word
  plat   : Platform
  /-- The model's own: `len`, the length of the instruction being executed, written by the step (log 14). -/
  len    : Word
  /-- The model's own: how many draws `any_N` have been made (R297; log 6). -/
  draws  : Nat
  deriving DecidableEq, Repr

/-- The exceptions of `60_exceptions.md` R263, each with the `pc` of the faulting instruction: `Fault(kind, info, pc)`
of R266. A fault is the end of the run; the state is the one the step was taken in (D7; log 17). Safe: the model stops
where a handler would run. -/
inductive Fault where
  /-- `#BR`, vector 5: raised by `bound` (R212, R260). Safe. -/
  | boundRange (pc : Word)
  /-- `#DE`, vector 0: raised by `div` on a zero divisor or an oversize quotient (R235). Safe. -/
  | divideError (pc : Word)
  /-- `#GP(0)`, vector 13: raised by `cli`, `sti` when CPL > IOPL (R147, R148). Safe. -/
  | generalProtection (pc : Word)
  /-- `#IO(port)`, vector 13: raised by `in`, `ins`, `out`, `outs` on a port the code may not access (R271). Safe. -/
  | ioPermission (port : Half) (pc : Word)
  /-- `#MEM`, vectors 12, 13, 14, 17: raised by every access that `MemAdmit` does not admit (R68, R272). Safe. -/
  | memoryAccess (pc : Word)
  /-- `#SEG(sel)`, vectors 11, 12, 13: raised by a segment register load of a selector that may not be loaded (R100,
  R107, R273). Safe. -/
  | segmentLoad (selector : Half) (pc : Word)
  deriving DecidableEq, Repr

/-- The situations the spec gives no meaning (R266: "a refused run proves nothing"). All are safe: the model stops. -/
inductive Refusal where
  /-- Raised by exec's arms for an instruction without a meaning yet. Safe. -/
  | notModelled (mnemonic : String)
  /-- Raised by the step on bytes that decode to no row (`30_encoding.md` R83, D20). Safe. -/
  | undecodable (why : DecodeError)
  /-- Raised by the step on a byte outside the program text (`70_reset_and_hazards.md` R292, U25). Safe. -/
  | outsideText
  /-- Raised by the step when `pc + len > 2^32` (R24, R292, D11). Safe. -/
  | pcPastTop
  /-- Raised by a data access that would run past address `2^32 - 1` (R52, D11). Safe. -/
  | accessPastTop
  /-- Raised by a port access that would run past port 65535 (R60, D11). Safe. -/
  | portPastTop
  /-- Raised by a store that overlaps the program text (R64, D10). Safe. -/
  | storeIntoText
  /-- Raised by `popf` of an image with TF set (R142, D26). Safe. -/
  | popfSetsTF
  /-- Raised by `popfl` of an image with AC set (R142, D26). Safe. -/
  | popfSetsAC
  /-- Raised by `outs` when `SegBase(%ds)` differs from `SegBase(%es)` (R125, D19). Safe. -/
  | outsSegment
  deriving DecidableEq, Repr

/-- Why an instruction does not complete. -/
inductive Stop where
  | fault (f : Fault)
  | refuse (r : Refusal)
  deriving DecidableEq, Repr

/-- The machine right after reset. The spec models no reset (R290, D8); the values are those it gives "for
orientation", and where it gives none those of log 1 to 4. No program is loaded: the program text is empty (log 12). -/
def State.reset : State where
  gpr := { eax := 0#32, ecx := 0#32, edx := 0x00000400#32, ebx := 0#32, esp := 0#32, ebp := 0#32, esi := 0#32, edi := 0#32 }
  pc := 0x0000FFF0#32
  flags := { cf := false, pf := false, af := false, zf := false, sf := false, tf := false, intf := false, df := false,
             of := false, iopl := 0#2, nt := false, rf := false, vm := false, ac := false }
  seg := { es := 0#16, cs := 0xF000#16, ss := 0#16, ds := 0#16, fs := 0#16, gs := 0#16 }
  cpl := 0#2
  sys := { cr0 := 0x60000010#32, cr2 := 0#32, cr3 := 0#32, cr4 := 0#32
           db0 := 0#32, db1 := 0#32, db2 := 0#32, db3 := 0#32, db6 := 0xFFFF0FF0#32, db7 := 0x00000400#32
           tr6 := 0#32, tr7 := 0#32
           st0 := 0#80, st1 := 0#80, st2 := 0#80, st3 := 0#80, st4 := 0#80, st5 := 0#80, st6 := 0#80, st7 := 0#80 }
  mem := []
  shadow := false
  portLog := []
  portAnswers := []
  plat := { segBase := { es := 0#32, cs := 0xFFFF0000#32, ss := 0#32, ds := 0#32, fs := 0#32, gs := 0#32 }
            noRead := [], noWrite := [], ioAllowed := [], unloadable := []
            text := { base := 0, size := 0 }, endPc := none }
  len := 0#32
  draws := 0

end Sys2Proof.Machine
end

