-- ==== Sys2Proof/Machine/Ops.lean ====
section
/-! DEFINITION. The operations every instruction is written over: stopping, registers, memory, the stack, segment
loads, ports, draws, fetching. Each access is decided here once. -/

namespace Sys2Proof.Machine

/-! ### Stopping (`60_exceptions.md` R266) -/

/-- Raising an exception: `raise K(info) ==> Fault(K, info, pc)`, the state being the one before the instruction
(R266, D7; log 17). The spec describes no handler entry of its own and no return. -/
def raise {α : Type} (k : Word → Fault) (s : State) : Except Stop α := .error (.fault (k s.pc))

/-- A situation the spec gives no meaning. -/
def refuse {α : Type} (r : Refusal) : Except Stop α := .error (.refuse r)

/-- What the host sees of an instruction's result. -/
def outcome : Except Stop State → Host.Outcome State Fault Refusal
  | .ok s => .next s
  | .error (.fault f) => .fault f
  | .error (.refuse r) => .refused r

/-! ### Registers (`10_state.md` R20, R28) -/

def Gpr.get (g : Gpr) : Reg32 → Word
  | .eax => g.eax
  | .ecx => g.ecx
  | .edx => g.edx
  | .ebx => g.ebx
  | .esp => g.esp
  | .ebp => g.ebp
  | .esi => g.esi
  | .edi => g.edi

def Gpr.set (g : Gpr) (r : Reg32) (v : Word) : Gpr :=
  match r with
  | .eax => { g with eax := v }
  | .ecx => { g with ecx := v }
  | .edx => { g with edx := v }
  | .ebx => { g with ebx := v }
  | .esp => { g with esp := v }
  | .ebp => { g with ebp := v }
  | .esi => { g with esi := v }
  | .edi => { g with edi := v }

def SegRegs.get (g : SegRegs) : SReg → Half
  | .es => g.es
  | .cs => g.cs
  | .ss => g.ss
  | .ds => g.ds
  | .fs => g.fs
  | .gs => g.gs

def SegRegs.set (g : SegRegs) (r : SReg) (v : Half) : SegRegs :=
  match r with
  | .es => { g with es := v }
  | .cs => { g with cs := v }
  | .ss => { g with ss := v }
  | .ds => { g with ds := v }
  | .fs => { g with fs := v }
  | .gs => { g with gs := v }

def SegBases.get (g : SegBases) : SReg → Word
  | .es => g.es
  | .cs => g.cs
  | .ss => g.ss
  | .ds => g.ds
  | .fs => g.fs
  | .gs => g.gs

def State.setReg (s : State) (r : Reg32) (v : Word) : State := { s with gpr := s.gpr.set r v }
def State.setFlags (s : State) (f : Flags) : State := { s with flags := f }
def State.setSeg (s : State) (r : SReg) (v : Half) : State := { s with seg := s.seg.set r v }
def State.setMem (s : State) (m : Memory) : State := { s with mem := m }
def State.setShadow (s : State) (b : Bool) : State := { s with shadow := b }
def State.setPc (s : State) (v : Word) : State := { s with pc := v }
def State.setLen (s : State) (v : Word) : State := { s with len := v }

/-- `pc_next = (pc + len) mod 2^32` (`00_scope.md` section 6). -/
def State.pcNext (s : State) : Word := s.pc + s.len

/-- `pc <- target` at the end of an instruction; the interrupt shadow of an earlier one ends with it (R24, R35). -/
def State.jumpTo (s : State) (target : Word) : State := { s with pc := target, shadow := false }

/-- `pc <- pc_next` (R24). -/
def State.advance (s : State) : State := s.jumpTo s.pcNext

/-! ### Draws (`70_reset_and_hazards.md` R297) -/

/-- The `k`-th one-bit draw `any_1` of this instruction. -/
def State.anyBit (s : State) (k : Nat) : Bool := Config.freeBit (s.draws + k)

/-- The `k`-th draw `any_w` of this instruction, `w` at most 32. -/
def State.anyValue (s : State) (k w : Nat) : BitVec w := (Config.freeWord (s.draws + k)).setWidth w

/-- `n` draws have been made. -/
def State.drew (s : State) (n : Nat) : State := { s with draws := s.draws + n }

/-! ### Memory (`20_memory.md` R51, R52, R64, R68; `60_exceptions.md` R272) -/

/-- What an address that memory does not list reads as. DESIGN CHOICE, unsafe (log 5). -/
def unlistedByte : Byte := 0#8

/-- `mem[a]`. -/
def Memory.read (m : Memory) (a : Nat) : Byte :=
  match m with
  | [] => unlistedByte
  | c :: m => if c.1 = a then c.2 else Memory.read m a

/-- Without what is listed at `a`. -/
def Memory.erase (m : Memory) (a : Nat) : Memory := m.filter (fun c => c.1 != a)

/-- `(a, v)` before the first greater address. -/
def Memory.insert (m : Memory) (a : Nat) (v : Byte) : Memory :=
  match m with
  | [] => [(a, v)]
  | c :: m => if a < c.1 then (a, v) :: c :: m else c :: Memory.insert m a v

/-- `mem[a] <- v`, in canonical form. -/
def Memory.write (m : Memory) (a : Nat) (v : Byte) : Memory :=
  if v = unlistedByte then m.erase a else (m.erase a).insert a v

/-- The canonical form: addresses strictly rising and below `2^32`, no entry equal to what an unlisted address reads
as. -/
def Memory.wf (m : Memory) : Bool :=
  match m with
  | [] => true
  | c :: m => decide (c.1 < addressSpace) && (c.2 != unlistedByte) && m.all (fun d => decide (c.1 < d.1)) && Memory.wf m

/-- The `n` bytes from `a` as a number, the byte at the lowest address least significant (R51, R52). -/
def Memory.readLE (m : Memory) (a : Nat) : Nat → Nat
  | 0 => 0
  | n + 1 => (m.read a).toNat + 256 * Memory.readLE m (a + 1) n

/-- The low `n` bytes of `v` to the `n` addresses from `a` (R51, R52). -/
def Memory.writeLE (m : Memory) (a : Nat) (v : Nat) : Nat → Memory
  | 0 => m
  | n + 1 => Memory.writeLE (m.write a (BitVec.ofNat 8 v)) (a + 1) (v / 256) n

def Range.holds (r : Range) (a : Nat) : Bool := decide (r.base ≤ a) && decide (a < r.base + r.size)

/-- One of the `n` numbers from `a` lies in the range. -/
def Range.meets (r : Range) (a n : Nat) : Bool := (List.range n).any (fun i => r.holds (a + i))

/-- The two kinds of data access of R272. -/
inductive Access where
  | read
  | write
  deriving DecidableEq, Repr

/-- `MemAdmit(state, addr, n, kind)` (R272; log 8). -/
def memAdmit (s : State) (a n : Nat) (k : Access) : Bool :=
  match k with
  | .read => !(s.plat.noRead.any (fun r => r.meets a n))
  | .write => !(s.plat.noWrite.any (fun r => r.meets a n))

/-- What every data access of `n` bytes from linear address `a` must pass: it ends at or below `2^32 - 1` (R52, D11),
it is admitted (R68), and a store does not overlap the program text (R64). Log 23 on the order. -/
def checkAccess (k : Access) (a : Word) (n : Nat) (s : State) : Except Stop Unit :=
  if addressSpace < a.toNat + n then refuse .accessPastTop
  else if !memAdmit s a.toNat n k then raise .memoryAccess s
  else if k = .write ∧ s.plat.text.meets a.toNat n then refuse .storeIntoText
  else .ok ()

/-- `MemRead(a, w/8)` (R52). -/
def load (w : Nat) (a : Word) (s : State) : Except Stop (BitVec w) :=
  match checkAccess .read a (w / 8) s with
  | .ok _ => .ok (BitVec.ofNat w (s.mem.readLE a.toNat (w / 8)))
  | .error e => .error e

/-- `MemWrite(a, w/8, v)` (R52). -/
def store {w : Nat} (a : Word) (v : BitVec w) (s : State) : Except Stop State :=
  match checkAccess .write a (w / 8) s with
  | .ok _ => .ok (s.setMem (s.mem.writeLE a.toNat v.toNat (w / 8)))
  | .error e => .error e

/-- `LA(sreg, off) = (SegBase(sreg) + off) mod 2^32` (R53). -/
def State.linear (s : State) (r : SReg) (off : Word) : Word := s.plat.segBase.get r + off

/-! ### The stack (`20_memory.md` R59) -/

/-- The bytes of a `w`-bit item, as an address step. -/
def itemStep (w : Nat) : Word := BitVec.ofNat 32 (w / 8)

/-- Where a push of `w` bits stores: `LA(%ss, %esp - n)`. -/
def pushAddress (w : Nat) (s : State) : Word := s.linear .ss (s.gpr.esp - itemStep w)

/-- A push of `w` bits; a fault of the store leaves `%esp` unchanged. -/
def push {w : Nat} (v : BitVec w) (s : State) : Except Stop State := do
  let s' ← store (pushAddress w s) v s
  pure (s'.setReg .esp (s.gpr.esp - itemStep w))

/-- The `w` bits at the top of the stack. -/
def top (w : Nat) (s : State) : Except Stop (BitVec w) := load w (s.linear .ss s.gpr.esp) s

/-- `x[%esp] <- (x[%esp] + n) mod 2^32`, the second half of a pop. -/
def State.popped (s : State) (w : Nat) : State := s.setReg .esp (s.gpr.esp + itemStep w)

/-! ### Segment loads (`60_exceptions.md` R273, `40_segment_register.md` R100) -/

/-- `SelectorLoadable(state, sreg, sel)`: a null selector never loads into `%ss` (R105, R273), and the platform may
refuse others (log 9). -/
def selectorLoadable (s : State) (r : SReg) (sel : Half) : Bool :=
  !(r == .ss && sel.extractLsb' 2 14 == 0#14) && !s.plat.unloadable.contains (r, sel)

/-- `if not SelectorLoadable: raise #SEG(sel)`, else `s[sreg] <- sel`. -/
def loadSegment (r : SReg) (sel : Half) (s : State) : Except Stop State :=
  if selectorLoadable s r sel then .ok (s.setSeg r sel) else raise (.segmentLoad sel) s

/-- The end of an instruction that has loaded segment register `r`: a load of `%ss` casts the interrupt shadow
(R35). -/
def State.advanceAfterLoad (s : State) (r : SReg) : State := s.advance.setShadow (r == .ss)

/-! ### Ports (`20_memory.md` R60, `60_exceptions.md` R271) -/

/-- `IOPermitted(state, port, n) = (CPL <= IOPL) or IOBitmapAllows(port, n)` (R271; log 10). -/
def ioPermitted (s : State) (port : Half) (n : Nat) : Bool :=
  decide (s.cpl.toNat ≤ s.flags.iopl.toNat) ||
    (List.range n).all (fun i => s.plat.ioAllowed.any (fun r => r.holds (port.toNat + i)))

/-- `if not IOPermitted(state, port, n): raise #IO(port)`. -/
def requirePort (port : Half) (n : Nat) (s : State) : Except Stop Unit :=
  if ioPermitted s port n then .ok () else raise (.ioPermission port) s

/-- What the oracle answers to the next read of `w` bits: the next launch answer, or `Config.portOracle` (R60; log
7). -/
def portAnswer (w : Nat) (port : Half) (s : State) : BitVec w :=
  match s.portAnswers with
  | v :: _ => v.setWidth w
  | [] => (Config.portOracle s.portLog port (w / 8)).setWidth w

/-- The state after an event has been appended to the history (R60). -/
def State.logged (s : State) (e : PortEvent) : State := { s with portLog := s.portLog ++ [e] }

/-- The state after the next launch answer is used. -/
def State.answered (s : State) : State := { s with portAnswers := s.portAnswers.tail }

/-- No port access wraps past port 65535 (R60). -/
def portInSpace (port : Half) (n : Nat) : Bool := decide (port.toNat + n ≤ portSpace)

/-- The event of a port access of `w` bits. -/
def portEvent {w : Nat} (k : PortKind) (port : Half) (v : BitVec w) : PortEvent :=
  { kind := k, port := port, bytes := w / 8, value := v.setWidth 32 }

/-- The state after `PortRead(port, w/8)` has answered. -/
def State.afterPortRead (s : State) (w : Nat) (port : Half) : State :=
  s.answered.logged (portEvent .read port (portAnswer w port s))

/-- `PortRead(port, w/8)` and the state with the event appended (R60). -/
def portRead (w : Nat) (port : Half) (s : State) : Except Stop (BitVec w × State) :=
  if portInSpace port (w / 8) then .ok (portAnswer w port s, s.afterPortRead w port) else refuse .portPastTop

/-- `PortWrite(port, w/8, v)` (R60). -/
def portWrite {w : Nat} (port : Half) (v : BitVec w) (s : State) : Except Stop State :=
  if portInSpace port (w / 8) then .ok (s.logged (portEvent .write port v)) else refuse .portPastTop

/-! ### Fetching (`70_reset_and_hazards.md` R292, R293) -/

/-- "If pc = END: the run has ended" (R292). -/
def ended (s : State) : Bool := s.plat.endPc == some s.pc

/-- At most `k` bytes of the program text from linear address `a`, as far as the text goes. -/
def textBytes (s : State) : Nat → Nat → List Byte
  | 0, _ => []
  | k + 1, a =>
    if s.plat.text.holds a && decide (a < addressSpace) then s.mem.read a :: textBytes s k (a + 1) else []

/-- The bytes an instruction at `pc` may consist of: the program text from `LA(%cs, pc)`, at most 15 (R75, R292). -/
def fetchBytes (s : State) : List Byte := textBytes s 15 (s.linear .cs s.pc).toNat

/-- Fetch and decode: the instruction at `pc` and its length, or the refusal of R292. -/
def fetch (s : State) : Except Stop (Instr × Nat) :=
  match decode (fetchBytes s) with
  | .ok (i, n) => if addressSpace < s.pc.toNat + n then refuse .pcPastTop else .ok (i, n)
  | .error .truncated => refuse .outsideText
  | .error e => refuse (.undecodable e)

/-! ### Loading a program from outside (`70_reset_and_hazards.md` R291; log 12) -/

/-- Bytes to consecutive addresses, as far as the address space goes. -/
def Memory.writeBytes (m : Memory) (a : Nat) : List Byte → Memory
  | [] => m
  | b :: bs => if a < addressSpace then Memory.writeBytes (m.write a b) (a + 1) bs else m

/-- `code` as the program text at the place the next instruction is fetched from; a run that had ended goes on. -/
def loadText (code : List Byte) (s : State) : State :=
  let a := (s.linear .cs s.pc).toNat
  { s with
    mem := s.mem.writeBytes a code
    plat := { s.plat with text := { base := a, size := code.length }
                          endPc := if s.plat.endPc = some s.pc then none else s.plat.endPc } }

/-- A launch state of R291: protected mode (CR0.PE = 1, R275), flat segments, `code` at `start`, `END` just past it,
everything else as after reset. -/
def launch (start : Word) (code : List Byte) : State :=
  let flat : SegBases := { es := 0#32, cs := 0#32, ss := 0#32, ds := 0#32, fs := 0#32, gs := 0#32 }
  let s := { State.reset with
    pc := start
    sys := { State.reset.sys with cr0 := State.reset.sys.cr0 ||| 1#32 }
    plat := { State.reset.plat with segBase := flat } }
  let t := loadText code s
  { t with plat := { t.plat with endPc := some (start + BitVec.ofNat 32 code.length) } }

end Sys2Proof.Machine
end

