-- ==== Sys2Proof/Machine/Operands.lean ====
section
/-! DEFINITION. Operands: the parts of the general registers that the register names denote (`10_state.md` R21),
effective addresses and default segments (`20_memory.md` R54, R55), reading and writing an `r/m` operand, and the
operand forms of each family as a source and a destination. -/

namespace Sys2Proof.Machine

/-! ### Register names (R21) -/

/-- The bits of a 32-bit register from bit `lo`, as many as the operand is wide. -/
structure Part where
  reg : Reg32
  lo  : Nat
  deriving DecidableEq, Repr

def Reg32.part (r : Reg32) : Part := { reg := r, lo := 0 }

/-- `%ax = %eax[15:0]` and so on. -/
def Reg16.part : Reg16 → Part
  | .ax => { reg := .eax, lo := 0 }
  | .cx => { reg := .ecx, lo := 0 }
  | .dx => { reg := .edx, lo := 0 }
  | .bx => { reg := .ebx, lo := 0 }
  | .sp => { reg := .esp, lo := 0 }
  | .bp => { reg := .ebp, lo := 0 }
  | .si => { reg := .esi, lo := 0 }
  | .di => { reg := .edi, lo := 0 }

/-- `%al = %eax[7:0]`, `%ah = %eax[15:8]` and so on. -/
def Reg8.part : Reg8 → Part
  | .al => { reg := .eax, lo := 0 }
  | .cl => { reg := .ecx, lo := 0 }
  | .dl => { reg := .edx, lo := 0 }
  | .bl => { reg := .ebx, lo := 0 }
  | .ah => { reg := .eax, lo := 8 }
  | .ch => { reg := .ecx, lo := 8 }
  | .dh => { reg := .edx, lo := 8 }
  | .bh => { reg := .ebx, lo := 8 }

/-- `%al`, `%ax`, `%eax`, by the width they are used at (R23). -/
def acc : Part := { reg := .eax, lo := 0 }

/-- `%ah`. -/
def partAH : Part := { reg := .eax, lo := 8 }

/-- `%cl`. -/
def partCL : Part := { reg := .ecx, lo := 0 }

/-- `%dx`, `%edx`. -/
def partDX : Part := { reg := .edx, lo := 0 }

/-- `old` with the `w` bits from bit `lo` replaced by `v`, the others unchanged (R21). -/
def insertBits {w : Nat} (old : Word) (lo : Nat) (v : BitVec w) : Word :=
  (old &&& ~~~((BitVec.allOnes w).setWidth 32 <<< lo)) ||| (v.setWidth 32 <<< lo)

/-- `x[reg]` of a register name. -/
def readPart (w : Nat) (p : Part) (s : State) : BitVec w := (s.gpr.get p.reg).extractLsb' p.lo w

/-- `x[reg] <- v` of a register name. -/
def writePart {w : Nat} (p : Part) (v : BitVec w) (s : State) : State :=
  s.setReg p.reg (insertBits (s.gpr.get p.reg) p.lo v)

/-! ### Memory operands (R54, R55) -/

def Scale.factor : Scale → Word
  | .s1 => 1#32
  | .s2 => 2#32
  | .s4 => 4#32
  | .s8 => 8#32

def baseValue (s : State) : Option Reg32 → Word
  | none => 0#32
  | some r => s.gpr.get r

def indexValue (s : State) : Option (Reg32 × Scale) → Word
  | none => 0#32
  | some (r, k) => s.gpr.get r * Scale.factor k

/-- `EA = (disp + x[base] + x[index] * scale) mod 2^32` (R54). -/
def effectiveAddress (s : State) (m : MemOp) : Word := m.disp + baseValue s m.base + indexValue s m.index

/-- The default segment: `%ss` when the base is `%ebp` or `%esp`, else `%ds` (R55). -/
def defaultSegment (base : Option Reg32) : SReg :=
  match base with
  | some .ebp => .ss
  | some .esp => .ss
  | _ => .ds

/-- An override prefix replaces the default (R55). -/
def segmentOf (m : MemOp) : SReg :=
  match m.seg with
  | some r => r
  | none => defaultSegment m.base

/-- `LA(seg, EA)` of a memory operand. -/
def operandAddress (s : State) (m : MemOp) : Word := s.linear (segmentOf m) (effectiveAddress s m)

/-! ### `r/m` operands (`00_scope.md` section 6) -/

/-- Where an operand is: a part of a register, or a linear address. -/
inductive Loc where
  | part (p : Part)
  | mem (a : Word)
  deriving DecidableEq, Repr

/-- The place an `r/m` operand names in state `s`. -/
def locate (s : State) : RM Part → Loc
  | .reg p => .part p
  | .mem m => .mem (operandAddress s m)

/-- `Rd_w(op)`. -/
def readLoc (w : Nat) (l : Loc) (s : State) : Except Stop (BitVec w) :=
  match l with
  | .part p => .ok (readPart w p s)
  | .mem a => load w a s

/-- `Wr_w(op, v)`. -/
def writeLoc {w : Nat} (l : Loc) (v : BitVec w) (s : State) : Except Stop State :=
  match l with
  | .part p => .ok (writePart p v s)
  | .mem a => store a v s

/-- `Rd_w` of an `r/m` operand. -/
def readRM (w : Nat) (m : RM Part) (s : State) : Except Stop (BitVec w) := readLoc w (locate s m) s

/-- A source operand: an immediate, or an `r/m` operand. -/
inductive Src (w : Nat) where
  | imm (v : BitVec w)
  | rm (m : RM Part)
  deriving DecidableEq, Repr

/-- `Rd_w` of a source operand. -/
def readSrc {w : Nat} (x : Src w) (s : State) : Except Stop (BitVec w) :=
  match x with
  | .imm v => .ok v
  | .rm m => readRM w m s

/-! ### The operand forms of the families, with their registers as parts -/

/-- Source and destination of the forms of R160; an `imm8` is sign-extended (R73, R80). -/
def aluOperands {ρ : Type} {n : Nat} (part : ρ → Part) : AluForm ρ n → Src n × RM Part
  | .regRm r m => (.rm (.reg (part r)), m.map part)
  | .rmReg m r => (.rm (m.map part), .reg (part r))
  | .immAcc v => (.imm v, .reg acc)
  | .immRm v m => (.imm v, m.map part)
  | .imm8Rm v m => (.imm (v.signExtend n), m.map part)

/-- The two operands of `test` (R168). -/
def testOperands {ρ : Type} {n : Nat} (part : ρ → Part) : TestForm ρ n → Src n × RM Part
  | .regRm r m => (.rm (.reg (part r)), m.map part)
  | .rmReg m r => (.rm (m.map part), .reg (part r))
  | .immAcc v => (.imm v, .reg acc)
  | .immRm v m => (.imm v, m.map part)

/-- The operand of `inc`, `dec` (R166, R167). -/
def incOperand {ρ : Type} (part : ρ → Part) : IncForm ρ → RM Part
  | .rm m => m.map part
  | .reg r => .reg (part r)

/-- A shift count: `imm8` (the `$1` form is `imm8 = 1`), or `%cl` (R190). -/
inductive Count where
  | imm (c : Byte)
  | cl
  deriving DecidableEq, Repr

/-- The count reduced to 0 to 31 (R190, R195). -/
def countValue (s : State) : Count → Nat
  | .imm c => c.toNat % 32
  | .cl => (readPart 8 partCL s).toNat % 32

/-- Count and destination of the forms of R190. -/
def shiftOperands {ρ : Type} (part : ρ → Part) : ShiftForm ρ → Count × RM Part
  | .imm c m => (.imm c, m.map part)
  | .one m => (.imm 1#8, m.map part)
  | .cl m => (.cl, m.map part)

/-- Count, source register and destination of the forms of R195. -/
def dshiftOperands {ρ : Type} (part : ρ → Part) : DShiftForm ρ → Count × Part × RM Part
  | .imm c r m => (.imm c, part r, m.map part)
  | .cl r m => (.cl, part r, m.map part)

/-- The port number of `in`, `out`: `zext_16(imm8)`, or `%dx` (R120, R121). -/
def portNumber (s : State) : PortForm → Half
  | .imm8 b => b.setWidth 16
  | .dx => readPart 16 partDX s

end Sys2Proof.Machine
end

