-- ==== Sys2Proof/Machine/Flags.lean ====
section
/-! DEFINITION. Flag computations (`10_state.md` R27, and each family's own rules), the flag images of `lahf`,
`sahf`, `pushf`, `popf` (`42_flag.md`), and the condition predicates (`47_control_transfer_supplement.md` R250). -/

namespace Sys2Proof.Machine

/-! ### The helpers of R27 -/

/-- `ZF_w(r)`. -/
def zeroFlag {w : Nat} (r : BitVec w) : Bool := decide (r = 0#w)

/-- `SF_w(r) = r[w-1]`. -/
def signFlag {w : Nat} (r : BitVec w) : Bool := r.msb

/-- `PF(r)`: an even number of 1 bits in the low byte, at every width. -/
def parityFlag {w : Nat} (r : BitVec w) : Bool := ((List.range 8).countP (fun i => r.getLsbD i)) % 2 == 0

/-- SF, ZF and PF "set according to the result". -/
def Flags.byResult {w : Nat} (f : Flags) (r : BitVec w) : Flags :=
  { f with sf := signFlag r, zf := zeroFlag r, pf := parityFlag r }

/-- `AddFlags_w(a, b, c)` for `r = (a + b + c) mod 2^w`, the other flags as in `f`. -/
def addFlags {w : Nat} (a b : BitVec w) (c : Bool) (f : Flags) : Flags :=
  let r := a + b + BitVec.ofNat w c.toNat
  { f.byResult r with
    cf := decide (2 ^ w ≤ a.toNat + b.toNat + c.toNat)
    of := a.msb == b.msb && r.msb != a.msb
    af := decide (16 ≤ a.toNat % 16 + b.toNat % 16 + c.toNat) }

/-- `SubFlags_w(a, b, c)` for `r = (a - b - c) mod 2^w`, the other flags as in `f`. -/
def subFlags {w : Nat} (a b : BitVec w) (c : Bool) (f : Flags) : Flags :=
  let r := a - b - BitVec.ofNat w c.toNat
  { f.byResult r with
    cf := decide (a.toNat < b.toNat + c.toNat)
    of := a.msb != b.msb && r.msb != a.msb
    af := decide (a.toNat % 16 < b.toNat % 16 + c.toNat) }

/-- `LogicFlags_w(r)`, AF being the draw `af`. -/
def logicFlags {w : Nat} (r : BitVec w) (af : Bool) (f : Flags) : Flags :=
  { f.byResult r with cf := false, of := false, af := af }

/-- The flags of `inc`, `dec`: those of the addition or subtraction, CF unchanged (R166, R167). -/
def Flags.keepCarry (new old : Flags) : Flags := { new with cf := old.cf }

/-! ### A two-operand operation: its result, its flags, how many draws it makes -/

/-- What a function of `(d, s, flags)` yields (R160). -/
structure Effect (w : Nat) where
  result : BitVec w
  flags  : Flags
  used   : Nat
  deriving DecidableEq, Repr

/-- `add` (R161). -/
def addEffect {w : Nat} (d x : BitVec w) (s : State) : Effect w :=
  { result := d + x, flags := addFlags d x false s.flags, used := 0 }

/-- `adc` (R162). -/
def adcEffect {w : Nat} (d x : BitVec w) (s : State) : Effect w :=
  { result := d + x + BitVec.ofNat w s.flags.cf.toNat, flags := addFlags d x s.flags.cf s.flags, used := 0 }

/-- `sub`, `cmp` (R163, R165). -/
def subEffect {w : Nat} (d x : BitVec w) (s : State) : Effect w :=
  { result := d - x, flags := subFlags d x false s.flags, used := 0 }

/-- `sbb` (R164). -/
def sbbEffect {w : Nat} (d x : BitVec w) (s : State) : Effect w :=
  { result := d - x - BitVec.ofNat w s.flags.cf.toNat, flags := subFlags d x s.flags.cf s.flags, used := 0 }

/-- `and`, `test` (R213, R168). -/
def andEffect {w : Nat} (d x : BitVec w) (s : State) : Effect w :=
  { result := d &&& x, flags := logicFlags (d &&& x) (s.anyBit 0) s.flags, used := 1 }

/-- `or` (R214). -/
def orEffect {w : Nat} (d x : BitVec w) (s : State) : Effect w :=
  { result := d ||| x, flags := logicFlags (d ||| x) (s.anyBit 0) s.flags, used := 1 }

/-- `xor` (R215). -/
def xorEffect {w : Nat} (d x : BitVec w) (s : State) : Effect w :=
  { result := d ^^^ x, flags := logicFlags (d ^^^ x) (s.anyBit 0) s.flags, used := 1 }

/-- `inc` (R166). -/
def incEffect {w : Nat} (d : BitVec w) (s : State) : Effect w :=
  { result := d + 1#w, flags := (addFlags d 1#w false s.flags).keepCarry s.flags, used := 0 }

/-- `dec` (R167). -/
def decEffect {w : Nat} (d : BitVec w) (s : State) : Effect w :=
  { result := d - 1#w, flags := (subFlags d 1#w false s.flags).keepCarry s.flags, used := 0 }

/-- `not` (R210): no flag changes. -/
def notEffect {w : Nat} (d : BitVec w) (s : State) : Effect w :=
  { result := ~~~d, flags := s.flags, used := 0 }

/-- `neg` (R211): the flags of `0 - d`. -/
def negEffect {w : Nat} (d : BitVec w) (s : State) : Effect w :=
  { result := 0#w - d, flags := subFlags 0#w d false s.flags, used := 0 }

/-! ### Shifts (R190 to R194): the draws are AF, OF, CF in this order -/

/-- The flags of a shift by `c`, not 0: OF is defined for `c = 1` only (R190). -/
def shiftFlags {w : Nat} (r : BitVec w) (c : Nat) (cf of : Bool) (s : State) : Flags :=
  { s.flags.byResult r with cf := cf, of := if c = 1 then of else s.anyBit 1, af := s.anyBit 0 }

/-- `sal`, `shl` by `c`, not 0 (R191). -/
def salEffect {w : Nat} (d : BitVec w) (c : Nat) (s : State) : Effect w :=
  let r := d <<< c
  let cf := if c < w then d.getLsbD (w - c) else s.anyBit 2
  { result := r, flags := shiftFlags r c cf (r.msb ^^ cf) s, used := 3 }

/-- `sar` by `c`, not 0 (R193). -/
def sarEffect {w : Nat} (d : BitVec w) (c : Nat) (s : State) : Effect w :=
  let r := d.sshiftRight c
  let cf := if c ≤ w then d.getLsbD (c - 1) else d.msb
  { result := r, flags := shiftFlags r c cf false s, used := 3 }

/-- `shr` by `c`, not 0 (R194). -/
def shrEffect {w : Nat} (d : BitVec w) (c : Nat) (s : State) : Effect w :=
  let r := d >>> c
  let cf := if c < w then d.getLsbD (c - 1) else s.anyBit 2
  { result := r, flags := shiftFlags r c cf d.msb s, used := 3 }

/-! ### Double shifts (R195, R196): the draws are AF, OF, then CF, SF, ZF, PF and the result where `c > w` -/

/-- A 16-bit double shift by 17 to 31: the result and all six flags are draws (U8, D24). -/
def dshiftUndefined (w : Nat) (s : State) : Effect w :=
  { result := s.anyValue 6 w
    flags := { s.flags with af := s.anyBit 0, of := s.anyBit 1, cf := s.anyBit 2, sf := s.anyBit 3
                            zf := s.anyBit 4, pf := s.anyBit 5 }
    used := 7 }

/-- The flags of a double shift with a defined result. -/
def dshiftFlags {w : Nat} (r : BitVec w) (cf : Bool) (s : State) : Flags :=
  { s.flags.byResult r with cf := cf, of := s.anyBit 1, af := s.anyBit 0 }

/-- `shld` by `c`, not 0 (R195). -/
def shldEffect {w : Nat} (d x : BitVec w) (c : Nat) (s : State) : Effect w :=
  if w < c then dshiftUndefined w s
  else
    let r := BitVec.ofNat w (d.toNat * 2 ^ c + x.toNat / 2 ^ (w - c))
    { result := r, flags := dshiftFlags r (d.getLsbD (w - c)) s, used := 7 }

/-- `shrd` by `c`, not 0 (R196). -/
def shrdEffect {w : Nat} (d x : BitVec w) (c : Nat) (s : State) : Effect w :=
  if w < c then dshiftUndefined w s
  else
    let r := BitVec.ofNat w (d.toNat / 2 ^ c + x.toNat * 2 ^ (w - c))
    { result := r, flags := dshiftFlags r (d.getLsbD (c - 1)) s, used := 7 }

/-! ### Multiply and divide (R231 to R235) -/

/-- CF and OF by whether the product is wider than the low half; SF, ZF, AF, PF are draws (U7). -/
def multiplyFlags (wide : Bool) (s : State) : Flags :=
  { s.flags with cf := wide, of := wide, sf := s.anyBit 0, zf := s.anyBit 1, af := s.anyBit 2, pf := s.anyBit 3 }

/-- After `div` all six flags are draws (R235, U4). -/
def divideFlags (s : State) : Flags :=
  { s.flags with cf := s.anyBit 0, of := s.anyBit 1, sf := s.anyBit 2, zf := s.anyBit 3, af := s.anyBit 4
                 pf := s.anyBit 5 }

/-! ### Flag images (R140 to R143) -/

/-- `b` at bit `i`. -/
def bitAt (i : Nat) (b : Bool) : Word := (BitVec.ofBool b).setWidth 32 <<< i

/-- The byte `lahf` transfers: `SF:ZF:xx:AF:xx:PF:xx:CF`, the `xx` being draws (R140). -/
def lahfByte (s : State) : Byte :=
  (bitAt 7 s.flags.sf ||| bitAt 6 s.flags.zf ||| bitAt 5 (s.anyBit 2) ||| bitAt 4 s.flags.af |||
    bitAt 3 (s.anyBit 1) ||| bitAt 2 s.flags.pf ||| bitAt 1 (s.anyBit 0) ||| bitAt 0 s.flags.cf).setWidth 8

/-- The flags `sahf` loads from a byte (R141). -/
def sahfFlags (a : Byte) (f : Flags) : Flags :=
  { f with sf := a.getLsbD 7, zf := a.getLsbD 6, af := a.getLsbD 4, pf := a.getLsbD 2, cf := a.getLsbD 0 }

/-- The image `pushf` stores (R143): RF and VM as 0, the reserved bits 1, 3, 5, 15 and 31:19 as draws. -/
def flagImage (s : State) : Word :=
  let f := s.flags
  bitAt 0 f.cf ||| bitAt 1 (s.anyBit 0) ||| bitAt 2 f.pf ||| bitAt 3 (s.anyBit 1) ||| bitAt 4 f.af |||
    bitAt 5 (s.anyBit 2) ||| bitAt 6 f.zf ||| bitAt 7 f.sf ||| bitAt 8 f.tf ||| bitAt 9 f.intf ||| bitAt 10 f.df |||
    bitAt 11 f.of ||| (f.iopl.setWidth 32 <<< 12) ||| bitAt 14 f.nt ||| bitAt 15 (s.anyBit 3) ||| bitAt 18 f.ac |||
    ((s.anyValue 4 13).setWidth 32 <<< 19)

/-- The flags `popf` takes from an image (R142): IOPL at CPL 0 only, IF when `CPL <= IOPL` (the old IOPL). -/
def popfFlags {w : Nat} (v : BitVec w) (cpl : BitVec 2) (f : Flags) : Flags :=
  { f with
    cf := v.getLsbD 0, pf := v.getLsbD 2, af := v.getLsbD 4, zf := v.getLsbD 6, sf := v.getLsbD 7
    df := v.getLsbD 10, of := v.getLsbD 11, nt := v.getLsbD 14
    iopl := if cpl = 0#2 then v.extractLsb' 12 2 else f.iopl
    intf := if cpl.toNat ≤ f.iopl.toNat then v.getLsbD 9 else f.intf }

/-! ### Conditions (R250) -/

/-- The sixteen conditions of R250, by the first of their names in the table. -/
inductive Cond where
  | o | no | b | ae | e | ne | be | a | s | ns | p | np | l | ge | le | g
  deriving DecidableEq, Repr

/-- When a condition is true (R250). -/
def Cond.holds (c : Cond) (f : Flags) : Bool :=
  match c with
  | .o => f.of
  | .no => !f.of
  | .b => f.cf
  | .ae => !f.cf
  | .e => f.zf
  | .ne => !f.zf
  | .be => f.cf || f.zf
  | .a => !f.cf && !f.zf
  | .s => f.sf
  | .ns => !f.sf
  | .p => f.pf
  | .np => !f.pf
  | .l => f.sf != f.of
  | .ge => f.sf == f.of
  | .le => f.zf || f.sf != f.of
  | .g => !f.zf && f.sf == f.of

end Sys2Proof.Machine
end

