-- ==== Sys2Proof/Machine/Arithmetic.lean ====
section
/-! DEFINITION. The arithmetic instructions `add`, `adc`, `sub`, `sbb`, `cmp`, `inc`, `dec`, `test`
(`43_arithmetic.md` R160 to R168), and the shared operations of R160 they and the logical instructions are written
over. -/

namespace Sys2Proof.Machine

/-- The end of an instruction that writes its operand at `l`: the result, the flags, the draws, `pc` (R160). -/
def writeBack {w : Nat} (e : Effect w) (l : Loc) (s : State) : Except Stop State := do
  let t ← writeLoc l e.result s
  pure ((t.setFlags e.flags).drew e.used).advance

/-- `op S, D` (R160): both operands are read, then the result and the flags are written. -/
def update {w : Nat} (op : BitVec w → BitVec w → State → Effect w) (x : Src w × RM Part) (s : State) :
    Except Stop State := do
  let v ← readSrc x.1 s
  let d ← readRM w x.2 s
  writeBack (op d v s) (locate s x.2) s

/-- `cmp S, D`, `test S, D` (R165, R168): the flags alone are written. -/
def compare {w : Nat} (op : BitVec w → BitVec w → State → Effect w) (x : Src w × RM Part) (s : State) :
    Except Stop State := do
  let v ← readSrc x.1 s
  let d ← readRM w x.2 s
  pure ((s.setFlags (op d v s).flags).drew (op d v s).used).advance

/-- `op D` (R166, R167, R210, R211). -/
def modify {w : Nat} (op : BitVec w → State → Effect w) (x : RM Part) (s : State) : Except Stop State := do
  let d ← readRM w x s
  writeBack (op d s) (locate s x) s

/-! ### The meanings -/

/-- `addb` (R161). -/
def execAddb (f : AluForm Reg8 8) (s : State) : Host.Outcome State Fault Refusal :=
  outcome (update addEffect (aluOperands Reg8.part f) s)

/-- `addw` (R161). -/
def execAddw (f : AluForm Reg16 16) (s : State) : Host.Outcome State Fault Refusal :=
  outcome (update addEffect (aluOperands Reg16.part f) s)

/-- `addl` (R161). -/
def execAddl (f : AluForm Reg32 32) (s : State) : Host.Outcome State Fault Refusal :=
  outcome (update addEffect (aluOperands Reg32.part f) s)

/-- `adcb` (R162). -/
def execAdcb (f : AluForm Reg8 8) (s : State) : Host.Outcome State Fault Refusal :=
  outcome (update adcEffect (aluOperands Reg8.part f) s)

/-- `adcw` (R162). -/
def execAdcw (f : AluForm Reg16 16) (s : State) : Host.Outcome State Fault Refusal :=
  outcome (update adcEffect (aluOperands Reg16.part f) s)

/-- `adcl` (R162). -/
def execAdcl (f : AluForm Reg32 32) (s : State) : Host.Outcome State Fault Refusal :=
  outcome (update adcEffect (aluOperands Reg32.part f) s)

/-- `subb` (R163). -/
def execSubb (f : AluForm Reg8 8) (s : State) : Host.Outcome State Fault Refusal :=
  outcome (update subEffect (aluOperands Reg8.part f) s)

/-- `subw` (R163). -/
def execSubw (f : AluForm Reg16 16) (s : State) : Host.Outcome State Fault Refusal :=
  outcome (update subEffect (aluOperands Reg16.part f) s)

/-- `subl` (R163). -/
def execSubl (f : AluForm Reg32 32) (s : State) : Host.Outcome State Fault Refusal :=
  outcome (update subEffect (aluOperands Reg32.part f) s)

/-- `sbbb` (R164). -/
def execSbbb (f : AluForm Reg8 8) (s : State) : Host.Outcome State Fault Refusal :=
  outcome (update sbbEffect (aluOperands Reg8.part f) s)

/-- `sbbw` (R164). -/
def execSbbw (f : AluForm Reg16 16) (s : State) : Host.Outcome State Fault Refusal :=
  outcome (update sbbEffect (aluOperands Reg16.part f) s)

/-- `sbbl` (R164). -/
def execSbbl (f : AluForm Reg32 32) (s : State) : Host.Outcome State Fault Refusal :=
  outcome (update sbbEffect (aluOperands Reg32.part f) s)

/-- `cmpb` (R165). -/
def execCmpb (f : AluForm Reg8 8) (s : State) : Host.Outcome State Fault Refusal :=
  outcome (compare subEffect (aluOperands Reg8.part f) s)

/-- `cmpw` (R165). -/
def execCmpw (f : AluForm Reg16 16) (s : State) : Host.Outcome State Fault Refusal :=
  outcome (compare subEffect (aluOperands Reg16.part f) s)

/-- `cmpl` (R165). -/
def execCmpl (f : AluForm Reg32 32) (s : State) : Host.Outcome State Fault Refusal :=
  outcome (compare subEffect (aluOperands Reg32.part f) s)

/-- `incb` (R166). -/
def execIncb (m : RM Reg8) (s : State) : Host.Outcome State Fault Refusal :=
  outcome (modify (w := 8) incEffect (m.map Reg8.part) s)

/-- `incw` (R166). -/
def execIncw (f : IncForm Reg16) (s : State) : Host.Outcome State Fault Refusal :=
  outcome (modify (w := 16) incEffect (incOperand Reg16.part f) s)

/-- `incl` (R166). -/
def execIncl (f : IncForm Reg32) (s : State) : Host.Outcome State Fault Refusal :=
  outcome (modify (w := 32) incEffect (incOperand Reg32.part f) s)

/-- `decb` (R167). -/
def execDecb (m : RM Reg8) (s : State) : Host.Outcome State Fault Refusal :=
  outcome (modify (w := 8) decEffect (m.map Reg8.part) s)

/-- `decw` (R167). -/
def execDecw (f : IncForm Reg16) (s : State) : Host.Outcome State Fault Refusal :=
  outcome (modify (w := 16) decEffect (incOperand Reg16.part f) s)

/-- `decl` (R167). -/
def execDecl (f : IncForm Reg32) (s : State) : Host.Outcome State Fault Refusal :=
  outcome (modify (w := 32) decEffect (incOperand Reg32.part f) s)

/-- `testb` (R168). -/
def execTestb (f : TestForm Reg8 8) (s : State) : Host.Outcome State Fault Refusal :=
  outcome (compare andEffect (testOperands Reg8.part f) s)

/-- `testw` (R168). -/
def execTestw (f : TestForm Reg16 16) (s : State) : Host.Outcome State Fault Refusal :=
  outcome (compare andEffect (testOperands Reg16.part f) s)

/-- `testl` (R168). -/
def execTestl (f : TestForm Reg32 32) (s : State) : Host.Outcome State Fault Refusal :=
  outcome (compare andEffect (testOperands Reg32.part f) s)

end Sys2Proof.Machine
end

