-- ==== Sys2Proof/Machine/Control.lean ====
section
/-! DEFINITION. The relative jumps (`47_control_transfer_supplement.md` R250 to R252). -/

namespace Sys2Proof.Machine

/-- `sext_32(disp)` (R251). -/
def displacement : JumpForm → Word
  | .disp8 d => d.signExtend 32
  | .disp32 d => d

/-- `jmp` (R251). -/
def jump (f : JumpForm) (s : State) : Except Stop State := .ok (s.jumpTo (s.pcNext + displacement f))

/-- `jcc` (R252). -/
def jumpIf (c : Cond) (f : JumpForm) (s : State) : Except Stop State :=
  if c.holds s.flags then jump f s else .ok s.advance

/-! ### The meanings -/

/-- `jmp` (R251). -/
def execJmp (f : JumpForm) (s : State) : Host.Outcome State Fault Refusal :=
  outcome (jump f s)

/-- `jo` (R252). -/
def execJo (f : JumpForm) (s : State) : Host.Outcome State Fault Refusal :=
  outcome (jumpIf .o f s)

/-- `jno` (R252). -/
def execJno (f : JumpForm) (s : State) : Host.Outcome State Fault Refusal :=
  outcome (jumpIf .no f s)

/-- `jb` (R252). -/
def execJb (f : JumpForm) (s : State) : Host.Outcome State Fault Refusal :=
  outcome (jumpIf .b f s)

/-- `jc` (R252). -/
def execJc (f : JumpForm) (s : State) : Host.Outcome State Fault Refusal :=
  outcome (jumpIf .b f s)

/-- `jnae` (R252). -/
def execJnae (f : JumpForm) (s : State) : Host.Outcome State Fault Refusal :=
  outcome (jumpIf .b f s)

/-- `jae` (R252). -/
def execJae (f : JumpForm) (s : State) : Host.Outcome State Fault Refusal :=
  outcome (jumpIf .ae f s)

/-- `jnb` (R252). -/
def execJnb (f : JumpForm) (s : State) : Host.Outcome State Fault Refusal :=
  outcome (jumpIf .ae f s)

/-- `jnc` (R252). -/
def execJnc (f : JumpForm) (s : State) : Host.Outcome State Fault Refusal :=
  outcome (jumpIf .ae f s)

/-- `je` (R252). -/
def execJe (f : JumpForm) (s : State) : Host.Outcome State Fault Refusal :=
  outcome (jumpIf .e f s)

/-- `jz` (R252). -/
def execJz (f : JumpForm) (s : State) : Host.Outcome State Fault Refusal :=
  outcome (jumpIf .e f s)

/-- `jne` (R252). -/
def execJne (f : JumpForm) (s : State) : Host.Outcome State Fault Refusal :=
  outcome (jumpIf .ne f s)

/-- `jnz` (R252). -/
def execJnz (f : JumpForm) (s : State) : Host.Outcome State Fault Refusal :=
  outcome (jumpIf .ne f s)

/-- `jbe` (R252). -/
def execJbe (f : JumpForm) (s : State) : Host.Outcome State Fault Refusal :=
  outcome (jumpIf .be f s)

/-- `jna` (R252). -/
def execJna (f : JumpForm) (s : State) : Host.Outcome State Fault Refusal :=
  outcome (jumpIf .be f s)

/-- `ja` (R252). -/
def execJa (f : JumpForm) (s : State) : Host.Outcome State Fault Refusal :=
  outcome (jumpIf .a f s)

/-- `jnbe` (R252). -/
def execJnbe (f : JumpForm) (s : State) : Host.Outcome State Fault Refusal :=
  outcome (jumpIf .a f s)

/-- `js` (R252). -/
def execJs (f : JumpForm) (s : State) : Host.Outcome State Fault Refusal :=
  outcome (jumpIf .s f s)

/-- `jns` (R252). -/
def execJns (f : JumpForm) (s : State) : Host.Outcome State Fault Refusal :=
  outcome (jumpIf .ns f s)

/-- `jp` (R252). -/
def execJp (f : JumpForm) (s : State) : Host.Outcome State Fault Refusal :=
  outcome (jumpIf .p f s)

/-- `jpe` (R252). -/
def execJpe (f : JumpForm) (s : State) : Host.Outcome State Fault Refusal :=
  outcome (jumpIf .p f s)

/-- `jnp` (R252). -/
def execJnp (f : JumpForm) (s : State) : Host.Outcome State Fault Refusal :=
  outcome (jumpIf .np f s)

/-- `jpo` (R252). -/
def execJpo (f : JumpForm) (s : State) : Host.Outcome State Fault Refusal :=
  outcome (jumpIf .np f s)

/-- `jl` (R252). -/
def execJl (f : JumpForm) (s : State) : Host.Outcome State Fault Refusal :=
  outcome (jumpIf .l f s)

/-- `jnge` (R252). -/
def execJnge (f : JumpForm) (s : State) : Host.Outcome State Fault Refusal :=
  outcome (jumpIf .l f s)

/-- `jge` (R252). -/
def execJge (f : JumpForm) (s : State) : Host.Outcome State Fault Refusal :=
  outcome (jumpIf .ge f s)

/-- `jnl` (R252). -/
def execJnl (f : JumpForm) (s : State) : Host.Outcome State Fault Refusal :=
  outcome (jumpIf .ge f s)

/-- `jle` (R252). -/
def execJle (f : JumpForm) (s : State) : Host.Outcome State Fault Refusal :=
  outcome (jumpIf .le f s)

/-- `jng` (R252). -/
def execJng (f : JumpForm) (s : State) : Host.Outcome State Fault Refusal :=
  outcome (jumpIf .le f s)

/-- `jg` (R252). -/
def execJg (f : JumpForm) (s : State) : Host.Outcome State Fault Refusal :=
  outcome (jumpIf .g f s)

/-- `jnle` (R252). -/
def execJnle (f : JumpForm) (s : State) : Host.Outcome State Fault Refusal :=
  outcome (jumpIf .g f s)

end Sys2Proof.Machine
end

