-- ==== Sys2Proof/Machine/FlagOps.lean ====
section
/-! DEFINITION. The flag instructions (`42_flag.md` R140 to R150). -/

namespace Sys2Proof.Machine

/-- `lahf` (R140). -/
def loadFlagByte (s : State) : Except Stop State := .ok ((writePart partAH (lahfByte s) s).drew 3).advance

/-- An instruction whose one effect is on the flags. -/
def changeFlags (f : Flags) (s : State) : Except Stop State := .ok (s.setFlags f).advance

/-- `popf` (R142): an image that sets TF, or AC in the long form, is refused (D26). -/
def popFlags (w : Nat) (s : State) : Except Stop State := do
  let v ← top w s
  if v.getLsbD 8 then refuse .popfSetsTF
  else if v.getLsbD 18 then refuse .popfSetsAC
  else pure ((s.popped w).setFlags (popfFlags v s.cpl s.flags)).advance

/-- `pushf` (R143). -/
def pushFlags (w : Nat) (s : State) : Except Stop State := do
  let t ← push ((flagImage s).setWidth w) s
  pure (t.drew 5).advance

/-- The privilege test of `cli`, `sti` (R147, R148): `CPL <= IOPL`, else `#GP(0)`. -/
def requireIopl (s : State) : Except Stop Unit :=
  if s.cpl.toNat ≤ s.flags.iopl.toNat then .ok () else raise .generalProtection s

/-- `cli` (R147). -/
def clearInterrupt (s : State) : Except Stop State := do
  requireIopl s
  pure (s.setFlags { s.flags with intf := false }).advance

/-- `sti` (R148), which casts the interrupt shadow (R35). -/
def setInterrupt (s : State) : Except Stop State := do
  requireIopl s
  pure ((s.setFlags { s.flags with intf := true }).advance.setShadow true)

/-! ### The meanings -/

/-- `lahf` (R140). -/
def execLahf (s : State) : Host.Outcome State Fault Refusal := outcome (loadFlagByte s)

/-- `sahf` (R141). -/
def execSahf (s : State) : Host.Outcome State Fault Refusal :=
  outcome (changeFlags (sahfFlags (readPart 8 partAH s) s.flags) s)

/-- `cmc` (R144). -/
def execCmc (s : State) : Host.Outcome State Fault Refusal :=
  outcome (changeFlags { s.flags with cf := !s.flags.cf } s)

/-- `clc` (R145). -/
def execClc (s : State) : Host.Outcome State Fault Refusal := outcome (changeFlags { s.flags with cf := false } s)

/-- `stc` (R146). -/
def execStc (s : State) : Host.Outcome State Fault Refusal := outcome (changeFlags { s.flags with cf := true } s)

/-- `cli` (R147). -/
def execCli (s : State) : Host.Outcome State Fault Refusal := outcome (clearInterrupt s)

/-- `sti` (R148). -/
def execSti (s : State) : Host.Outcome State Fault Refusal := outcome (setInterrupt s)

/-- `cld` (R149). -/
def execCld (s : State) : Host.Outcome State Fault Refusal := outcome (changeFlags { s.flags with df := false } s)

/-- `std` (R150). -/
def execStd (s : State) : Host.Outcome State Fault Refusal := outcome (changeFlags { s.flags with df := true } s)

/-- `popfw` (R142). -/
def execPopfw (s : State) : Host.Outcome State Fault Refusal := outcome (popFlags 16 s)

/-- `popfl` (R142). -/
def execPopfl (s : State) : Host.Outcome State Fault Refusal := outcome (popFlags 32 s)

/-- `pushfw` (R143). -/
def execPushfw (s : State) : Host.Outcome State Fault Refusal := outcome (pushFlags 16 s)

/-- `pushfl` (R143). -/
def execPushfl (s : State) : Host.Outcome State Fault Refusal := outcome (pushFlags 32 s)

end Sys2Proof.Machine
end

