-- ==== Sys2Proof/Machine/Io.lean ====
section
/-! DEFINITION. The I/O instructions (`41_io.md` R120 to R126). -/

namespace Sys2Proof.Machine

/-- `in` (R120, R121). -/
def portIn (w : Nat) (f : PortForm) (s : State) : Except Stop State := do
  requirePort (portNumber s f) (w / 8) s
  let r ← portRead w (portNumber s f) s
  pure (writePart acc r.1 r.2).advance

/-- `out` (R123, R124). -/
def portOut (w : Nat) (f : PortForm) (s : State) : Except Stop State := do
  requirePort (portNumber s f) (w / 8) s
  let t ← portWrite (portNumber s f) (readPart w acc s) s
  pure t.advance

/-- The index register after a transfer of `w` bits: up when DF is 0, down when it is 1 (R122, R125). -/
def indexAfter (w : Nat) (df : Bool) (i : Word) : Word := if df then i - itemStep w else i + itemStep w

/-- Where `ins` stores: `LA(%es, x[%edi])` (R122). -/
def insAddress (s : State) : Word := s.linear .es s.gpr.edi

/-- One `ins` without its `pc <- pc_next` (R122): the write is checked before the port is read. -/
def insOnce (w : Nat) (s : State) : Except Stop State := do
  let port := readPart 16 partDX s
  requirePort port (w / 8) s
  checkAccess .write (insAddress s) (w / 8) s
  let r ← portRead w port s
  let t ← store (insAddress s) r.1 r.2
  pure (t.setReg .edi (indexAfter w s.flags.df s.gpr.edi))

/-- The segment `outs` reads through: an override, else `%ds` (R55, R125). "Unless `SegBase(%ds) = SegBase(%es)`" the
instruction is refused, with an override as without one (R125, D19, U19). -/
def outsSegment (seg : Option SReg) (s : State) : Except Stop SReg :=
  if s.plat.segBase.ds = s.plat.segBase.es then .ok (seg.getD .ds) else refuse .outsSegment

/-- One `outs` without its `pc <- pc_next` (R125). -/
def outsOnce (w : Nat) (seg : Option SReg) (s : State) : Except Stop State := do
  let r ← outsSegment seg s
  let port := readPart 16 partDX s
  requirePort port (w / 8) s
  let v ← load w (s.linear r s.gpr.esi) s
  let t ← portWrite port v s
  pure (t.setReg .esi (indexAfter w s.flags.df s.gpr.esi))

/-- An instruction that ends with `pc <- pc_next`. -/
def single (once : State → Except Stop State) (s : State) : Except Stop State := do
  let t ← once s
  pure t.advance

/-- After an iteration of `rep`: `%ecx` counts down, and the instruction is over when it is 0 (R126). -/
def State.countDown (s : State) : State :=
  let t := s.setReg .ecx (s.gpr.ecx - 1#32)
  if t.gpr.ecx = 0#32 then t.advance else t

/-- The `rep` prefix (R126): one iteration is one step, `pc` staying at the instruction until `%ecx` is 0 (D22; log
15). -/
def repeated (once : State → Except Stop State) (s : State) : Except Stop State :=
  if s.gpr.ecx = 0#32 then .ok s.advance
  else do
    let t ← once s
    pure t.countDown

/-! ### The meanings -/

/-- `inb` (R120, R121). -/
def execInb (f : PortForm) (s : State) : Host.Outcome State Fault Refusal := outcome (portIn 8 f s)

/-- `inw` (R120, R121). -/
def execInw (f : PortForm) (s : State) : Host.Outcome State Fault Refusal := outcome (portIn 16 f s)

/-- `inl` (R120, R121). -/
def execInl (f : PortForm) (s : State) : Host.Outcome State Fault Refusal := outcome (portIn 32 f s)

/-- `insb` (R122). -/
def execInsb (s : State) : Host.Outcome State Fault Refusal := outcome (single (insOnce 8) s)

/-- `rep insb` (R126). -/
def execRepInsb (s : State) : Host.Outcome State Fault Refusal := outcome (repeated (insOnce 8) s)

/-- `insw` (R122). -/
def execInsw (s : State) : Host.Outcome State Fault Refusal := outcome (single (insOnce 16) s)

/-- `rep insw` (R126). -/
def execRepInsw (s : State) : Host.Outcome State Fault Refusal := outcome (repeated (insOnce 16) s)

/-- `insl` (R122). -/
def execInsl (s : State) : Host.Outcome State Fault Refusal := outcome (single (insOnce 32) s)

/-- `rep insl` (R126). -/
def execRepInsl (s : State) : Host.Outcome State Fault Refusal := outcome (repeated (insOnce 32) s)

/-- `outb` (R123, R124). -/
def execOutb (f : PortForm) (s : State) : Host.Outcome State Fault Refusal := outcome (portOut 8 f s)

/-- `outw` (R123, R124). -/
def execOutw (f : PortForm) (s : State) : Host.Outcome State Fault Refusal := outcome (portOut 16 f s)

/-- `outl` (R123, R124). -/
def execOutl (f : PortForm) (s : State) : Host.Outcome State Fault Refusal := outcome (portOut 32 f s)

/-- `outsb` (R125). -/
def execOutsb (seg : Option SReg) (s : State) : Host.Outcome State Fault Refusal :=
  outcome (single (outsOnce 8 seg) s)

/-- `rep outsb` (R126). -/
def execRepOutsb (seg : Option SReg) (s : State) : Host.Outcome State Fault Refusal :=
  outcome (repeated (outsOnce 8 seg) s)

/-- `outsw` (R125). -/
def execOutsw (seg : Option SReg) (s : State) : Host.Outcome State Fault Refusal :=
  outcome (single (outsOnce 16 seg) s)

/-- `rep outsw` (R126). -/
def execRepOutsw (seg : Option SReg) (s : State) : Host.Outcome State Fault Refusal :=
  outcome (repeated (outsOnce 16 seg) s)

/-- `outsl` (R125). -/
def execOutsl (seg : Option SReg) (s : State) : Host.Outcome State Fault Refusal :=
  outcome (single (outsOnce 32 seg) s)

/-- `rep outsl` (R126). -/
def execRepOutsl (seg : Option SReg) (s : State) : Host.Outcome State Fault Refusal :=
  outcome (repeated (outsOnce 32 seg) s)

end Sys2Proof.Machine
end

