-- ==== Sys2Proof/Machine/Logical.lean ====
section
/-! DEFINITION. The logical instructions `and`, `or`, `xor`, `not`, `neg` and the check `bound`
(`45_logical_bound.md` R210 to R215). -/

namespace Sys2Proof.Machine

/-- Where `bound` reads the upper bound: `LA(seg, (a + n) mod 2^32)` (R212). -/
def upperBoundAddress (w : Nat) (m : MemOp) (s : State) : Word :=
  s.linear (segmentOf m) (effectiveAddress s m + itemStep w)

/-- `bound` (R212): the two bounds are read, the index is compared with them as signed numbers. -/
def checkBounds (w : Nat) (index : Part) (m : MemOp) (s : State) : Except Stop State := do
  let lower ← load w (operandAddress s m) s
  let upper ← load w (upperBoundAddress w m s) s
  let i := (readPart w index s).toInt
  if i < lower.toInt ∨ upper.toInt < i then raise .boundRange s else pure s.advance

/-! ### The meanings -/

/-- `andb` (R213). -/
def execAndb (f : AluForm Reg8 8) (s : State) : Host.Outcome State Fault Refusal :=
  outcome (update andEffect (aluOperands Reg8.part f) s)

/-- `andw` (R213). -/
def execAndw (f : AluForm Reg16 16) (s : State) : Host.Outcome State Fault Refusal :=
  outcome (update andEffect (aluOperands Reg16.part f) s)

/-- `andl` (R213). -/
def execAndl (f : AluForm Reg32 32) (s : State) : Host.Outcome State Fault Refusal :=
  outcome (update andEffect (aluOperands Reg32.part f) s)

/-- `orb` (R214). -/
def execOrb (f : AluForm Reg8 8) (s : State) : Host.Outcome State Fault Refusal :=
  outcome (update orEffect (aluOperands Reg8.part f) s)

/-- `orw` (R214). -/
def execOrw (f : AluForm Reg16 16) (s : State) : Host.Outcome State Fault Refusal :=
  outcome (update orEffect (aluOperands Reg16.part f) s)

/-- `orl` (R214). -/
def execOrl (f : AluForm Reg32 32) (s : State) : Host.Outcome State Fault Refusal :=
  outcome (update orEffect (aluOperands Reg32.part f) s)

/-- `xorb` (R215). -/
def execXorb (f : AluForm Reg8 8) (s : State) : Host.Outcome State Fault Refusal :=
  outcome (update xorEffect (aluOperands Reg8.part f) s)

/-- `xorw` (R215). -/
def execXorw (f : AluForm Reg16 16) (s : State) : Host.Outcome State Fault Refusal :=
  outcome (update xorEffect (aluOperands Reg16.part f) s)

/-- `xorl` (R215). -/
def execXorl (f : AluForm Reg32 32) (s : State) : Host.Outcome State Fault Refusal :=
  outcome (update xorEffect (aluOperands Reg32.part f) s)

/-- `notb` (R210). -/
def execNotb (m : RM Reg8) (s : State) : Host.Outcome State Fault Refusal :=
  outcome (modify (w := 8) notEffect (m.map Reg8.part) s)

/-- `notw` (R210). -/
def execNotw (m : RM Reg16) (s : State) : Host.Outcome State Fault Refusal :=
  outcome (modify (w := 16) notEffect (m.map Reg16.part) s)

/-- `notl` (R210). -/
def execNotl (m : RM Reg32) (s : State) : Host.Outcome State Fault Refusal :=
  outcome (modify (w := 32) notEffect (m.map Reg32.part) s)

/-- `negb` (R211). -/
def execNegb (m : RM Reg8) (s : State) : Host.Outcome State Fault Refusal :=
  outcome (modify (w := 8) negEffect (m.map Reg8.part) s)

/-- `negw` (R211). -/
def execNegw (m : RM Reg16) (s : State) : Host.Outcome State Fault Refusal :=
  outcome (modify (w := 16) negEffect (m.map Reg16.part) s)

/-- `negl` (R211). -/
def execNegl (m : RM Reg32) (s : State) : Host.Outcome State Fault Refusal :=
  outcome (modify (w := 32) negEffect (m.map Reg32.part) s)

/-- `boundw` (R212). -/
def execBoundw (index : Reg16) (m : MemOp) (s : State) : Host.Outcome State Fault Refusal :=
  outcome (checkBounds 16 (Reg16.part index) m s)

/-- `boundl` (R212). -/
def execBoundl (index : Reg32) (m : MemOp) (s : State) : Host.Outcome State Fault Refusal :=
  outcome (checkBounds 32 (Reg32.part index) m s)

end Sys2Proof.Machine
end

