-- ==== Sys2Proof/Machine/MulDiv.lean ====
section
/-! DEFINITION. Multiply and divide (`46_multiply_divide.md` R230 to R235). -/

namespace Sys2Proof.Machine

/-- Where the high half of the product or dividend, or the remainder, is: `%ah`, `%dx`, `%edx` (R230). -/
def highPart (w : Nat) : Part := if w = 8 then partAH else partDX

/-- `pair_w <- hi : lo` (R230). -/
def writePair {w : Nat} (hi lo : BitVec w) (s : State) : State := writePart (highPart w) hi (writePart acc lo s)

/-- The value of `pair_w` (R230). -/
def readPair (w : Nat) (s : State) : Nat := (readPart w (highPart w) s).toNat * 2 ^ w + (readPart w acc s).toNat

/-- The end of a multiply: the flags, with SF, ZF, AF, PF drawn (U7), and `pc`. -/
def multiplied (wide : Bool) (s t : State) : State := ((t.setFlags (multiplyFlags wide s)).drew 4).advance

/-- `mul` (R234). -/
def multiply (w : Nat) (x : RM Part) (s : State) : Except Stop State := do
  let v ← readRM w x s
  let p := (readPart w acc s).toNat * v.toNat
  pure (multiplied (decide (p / 2 ^ w ≠ 0)) s (writePair (BitVec.ofNat w (p / 2 ^ w)) (BitVec.ofNat w p) s))

/-- The exact product `p` is not the signed value of its low `w` bits (R231 to R233). -/
def signedWide (w : Nat) (p : Int) : Bool := decide (p ≠ (BitVec.ofInt w p).toInt)

/-- One-operand `imul` (R231). -/
def signedMultiply (w : Nat) (x : RM Part) (s : State) : Except Stop State := do
  let v ← readRM w x s
  let p := (readPart w acc s).toInt * v.toInt
  pure (multiplied (signedWide w p) s (writePair (BitVec.ofInt w (p / 2 ^ w)) (BitVec.ofInt w p) s))

/-- Two- and three-operand `imul` (R232, R233): the low `w` bits of the product go to `dst`. -/
def signedMultiplyInto {w : Nat} (a : BitVec w) (x : RM Part) (dst : Part) (s : State) : Except Stop State := do
  let v ← readRM w x s
  let p := a.toInt * v.toInt
  pure (multiplied (signedWide w p) s (writePart dst (BitVec.ofInt w p) s))

/-- The operand forms of `imul` (R231, R232, R233). -/
def imulForm {ρ : Type} {w : Nat} (part : ρ → Part) (f : ImulForm ρ w) (s : State) : Except Stop State :=
  match f with
  | .one x => signedMultiply w (x.map part) s
  | .two x r => signedMultiplyInto (readPart w (part r) s) (x.map part) (part r) s
  | .three8 i x r => signedMultiplyInto (i.signExtend w) (x.map part) (part r) s
  | .three i x r => signedMultiplyInto i (x.map part) (part r) s

/-- `div` (R235): `#DE` on a zero divisor and on a quotient above `2^w - 1`; all six flags drawn. -/
def divide (w : Nat) (x : RM Part) (s : State) : Except Stop State := do
  let v ← readRM w x s
  let n := readPair w s
  if v.toNat = 0 then raise .divideError s
  else if 2 ^ w ≤ n / v.toNat then raise .divideError s
  else
    let t := writePair (BitVec.ofNat w (n % v.toNat)) (BitVec.ofNat w (n / v.toNat)) s
    pure ((t.setFlags (divideFlags s)).drew 6).advance

/-! ### The meanings -/

/-- `mulb` (R234). -/
def execMulb (m : RM Reg8) (s : State) : Host.Outcome State Fault Refusal :=
  outcome (multiply 8 (m.map Reg8.part) s)

/-- `mulw` (R234). -/
def execMulw (m : RM Reg16) (s : State) : Host.Outcome State Fault Refusal :=
  outcome (multiply 16 (m.map Reg16.part) s)

/-- `mull` (R234). -/
def execMull (m : RM Reg32) (s : State) : Host.Outcome State Fault Refusal :=
  outcome (multiply 32 (m.map Reg32.part) s)

/-- `mul` without a suffix is a long (R230, R234). -/
def execMul (m : RM Reg32) (s : State) : Host.Outcome State Fault Refusal :=
  outcome (multiply 32 (m.map Reg32.part) s)

/-- `imulb` (R231). -/
def execImulb (m : RM Reg8) (s : State) : Host.Outcome State Fault Refusal :=
  outcome (signedMultiply 8 (m.map Reg8.part) s)

/-- `imulw` (R231, R232, R233). -/
def execImulw (f : ImulForm Reg16 16) (s : State) : Host.Outcome State Fault Refusal :=
  outcome (imulForm Reg16.part f s)

/-- `imull` (R231, R232, R233). -/
def execImull (f : ImulForm Reg32 32) (s : State) : Host.Outcome State Fault Refusal :=
  outcome (imulForm Reg32.part f s)

/-- `imul` without a suffix is a long (R230 to R233). -/
def execImul (f : ImulForm Reg32 32) (s : State) : Host.Outcome State Fault Refusal :=
  outcome (imulForm Reg32.part f s)

/-- `divb` (R235). -/
def execDivb (m : RM Reg8) (s : State) : Host.Outcome State Fault Refusal :=
  outcome (divide 8 (m.map Reg8.part) s)

/-- `divw` (R235). -/
def execDivw (m : RM Reg16) (s : State) : Host.Outcome State Fault Refusal :=
  outcome (divide 16 (m.map Reg16.part) s)

/-- `divl` (R235). -/
def execDivl (m : RM Reg32) (s : State) : Host.Outcome State Fault Refusal :=
  outcome (divide 32 (m.map Reg32.part) s)

/-- `div` without a suffix is a long (R230, R235). -/
def execDiv (m : RM Reg32) (s : State) : Host.Outcome State Fault Refusal :=
  outcome (divide 32 (m.map Reg32.part) s)

end Sys2Proof.Machine
end

