-- ==== Sys2Proof/Machine/SegmentRegister.lean ====
section
/-! DEFINITION. The segment register instructions (`40_segment_register.md` R100 to R110): full-pointer loads, `pop`,
`push`. -/

namespace Sys2Proof.Machine

/-- The bytes of a full pointer with a `w`-bit offset: `mem32`, `mem48` (R57, R100). -/
def pointerBytes (w : Nat) : Nat := w / 8 + 2

/-- A full pointer that runs past address `2^32 - 1` is refused whole (R52, D11; log 22). -/
def requireWhole (a : Word) (n : Nat) : Except Stop Unit :=
  if addressSpace < a.toNat + n then refuse .accessPastTop else .ok ()

/-- Load full pointer (R100): offset to the general register, selector to the segment register. -/
def loadPointer (w : Nat) (r : SReg) (m : MemOp) (dst : Part) (s : State) : Except Stop State := do
  let a := operandAddress s m
  requireWhole a (pointerBytes w)
  let off ← load w a s
  let sel ← load 16 (a + itemStep w) s
  let t ← loadSegment r sel s
  pure ((writePart dst off t).advanceAfterLoad r)

/-- `pop` into a register or memory operand (R106): the destination is located with the incremented `%esp`. -/
def popInto (w : Nat) (dst : RM Part) (s : State) : Except Stop State := do
  let v ← top w s
  let t ← writeLoc (locate (s.popped w) dst) v (s.popped w)
  pure t.advance

/-- `pop` into a segment register (R107): a long is popped, its low 16 bits are the selector. -/
def popSegment (r : SReg) (s : State) : Except Stop State := do
  let v ← top 32 s
  let t ← loadSegment r (v.setWidth 16) s
  pure ((t.popped 32).advanceAfterLoad r)

/-- `push` of a register, memory or immediate operand (R108, R109): read before `%esp` changes. -/
def pushFrom {w : Nat} (x : Src w) (s : State) : Except Stop State := do
  let v ← readSrc x s
  let t ← push v s
  pure t.advance

/-- The long that `push` of a segment register stores: the selector under 16 drawn bits (R110, U9). -/
def segmentImage (r : SReg) (s : State) : Word := s.anyValue 0 16 ++ s.seg.get r

/-- `push` of a segment register (R110). -/
def pushSegment (r : SReg) (s : State) : Except Stop State := do
  let t ← push (segmentImage r s) s
  pure (t.drew 1).advance

/-- The destination of `popw` (R106). -/
def popOperand : PopForm → RM Part
  | .reg r => .reg (Reg16.part r)
  | .rm m => m.map Reg16.part

/-- The source of `pushw` (R108, R109); an `imm8` is sign-extended (R73). -/
def pushOperand : PushForm → Src 16
  | .reg r => .rm (.reg (Reg16.part r))
  | .rm m => .rm (m.map Reg16.part)
  | .imm8 v => .imm (v.signExtend 16)
  | .imm v => .imm v

/-- `popl` (R106, R107). -/
def popLong (f : PopLongForm) (s : State) : Except Stop State :=
  match f with
  | .reg r => popInto 32 (.reg (Reg32.part r)) s
  | .rm m => popInto 32 (m.map Reg32.part) s
  | .sreg r => popSegment r s

/-- `pushl` (R108, R109, R110). -/
def pushLong (f : PushLongForm) (s : State) : Except Stop State :=
  match f with
  | .reg r => pushFrom (w := 32) (.rm (.reg (Reg32.part r))) s
  | .rm m => pushFrom (w := 32) (.rm (m.map Reg32.part)) s
  | .imm8 v => pushFrom (w := 32) (.imm (v.signExtend 32)) s
  | .imm v => pushFrom (w := 32) (.imm v) s
  | .sreg r => pushSegment r s

/-! ### The meanings -/

/-- `ldsw` (R101). -/
def execLdsw (m : MemOp) (dst : Reg16) (s : State) : Host.Outcome State Fault Refusal :=
  outcome (loadPointer 16 .ds m (Reg16.part dst) s)

/-- `ldsl` (R101). -/
def execLdsl (m : MemOp) (dst : Reg32) (s : State) : Host.Outcome State Fault Refusal :=
  outcome (loadPointer 32 .ds m (Reg32.part dst) s)

/-- `lesw` (R102). -/
def execLesw (m : MemOp) (dst : Reg16) (s : State) : Host.Outcome State Fault Refusal :=
  outcome (loadPointer 16 .es m (Reg16.part dst) s)

/-- `lesl` (R102). -/
def execLesl (m : MemOp) (dst : Reg32) (s : State) : Host.Outcome State Fault Refusal :=
  outcome (loadPointer 32 .es m (Reg32.part dst) s)

/-- `lfsw` (R103). -/
def execLfsw (m : MemOp) (dst : Reg16) (s : State) : Host.Outcome State Fault Refusal :=
  outcome (loadPointer 16 .fs m (Reg16.part dst) s)

/-- `lfsl` (R103). -/
def execLfsl (m : MemOp) (dst : Reg32) (s : State) : Host.Outcome State Fault Refusal :=
  outcome (loadPointer 32 .fs m (Reg32.part dst) s)

/-- `lgsw` (R104). -/
def execLgsw (m : MemOp) (dst : Reg16) (s : State) : Host.Outcome State Fault Refusal :=
  outcome (loadPointer 16 .gs m (Reg16.part dst) s)

/-- `lgsl` (R104). -/
def execLgsl (m : MemOp) (dst : Reg32) (s : State) : Host.Outcome State Fault Refusal :=
  outcome (loadPointer 32 .gs m (Reg32.part dst) s)

/-- `lssw` (R105). -/
def execLssw (m : MemOp) (dst : Reg16) (s : State) : Host.Outcome State Fault Refusal :=
  outcome (loadPointer 16 .ss m (Reg16.part dst) s)

/-- `lssl` (R105). -/
def execLssl (m : MemOp) (dst : Reg32) (s : State) : Host.Outcome State Fault Refusal :=
  outcome (loadPointer 32 .ss m (Reg32.part dst) s)

/-- `popw` (R106). -/
def execPopw (f : PopForm) (s : State) : Host.Outcome State Fault Refusal := outcome (popInto 16 (popOperand f) s)

/-- `popl` (R106, R107). -/
def execPopl (f : PopLongForm) (s : State) : Host.Outcome State Fault Refusal := outcome (popLong f s)

/-- `pop` of a segment register, the suffix omitted (R107). -/
def execPop (dst : SReg) (s : State) : Host.Outcome State Fault Refusal := outcome (popSegment dst s)

/-- `pushw` (R108, R109). -/
def execPushw (f : PushForm) (s : State) : Host.Outcome State Fault Refusal := outcome (pushFrom (pushOperand f) s)

/-- `pushl` (R108, R109, R110). -/
def execPushl (f : PushLongForm) (s : State) : Host.Outcome State Fault Refusal := outcome (pushLong f s)

/-- `push` of a segment register, the suffix omitted (R110). -/
def execPush (src : SReg) (s : State) : Host.Outcome State Fault Refusal := outcome (pushSegment src s)

end Sys2Proof.Machine
end

