-- ==== Sys2Proof/Machine/Shift.lean ====
section
/-! DEFINITION. The shifts (`44_shift.md` R190 to R196). -/

namespace Sys2Proof.Machine

/-- `op count, D` (R190): a count of 0 after the reduction writes nothing. -/
def shift {w : Nat} (op : BitVec w → Nat → State → Effect w) (x : Count × RM Part) (s : State) :
    Except Stop State := do
  let d ← readRM w x.2 s
  if countValue s x.1 = 0 then pure s.advance
  else writeBack (op d (countValue s x.1) s) (locate s x.2) s

/-- `op count, reg, D` (R195, R196). -/
def doubleShift {w : Nat} (op : BitVec w → BitVec w → Nat → State → Effect w) (x : Count × Part × RM Part)
    (s : State) : Except Stop State := do
  let d ← readRM w x.2.2 s
  if countValue s x.1 = 0 then pure s.advance
  else writeBack (op d (readPart w x.2.1 s) (countValue s x.1) s) (locate s x.2.2) s

/-! ### The meanings -/

/-- `salb` (R191). -/
def execSalb (f : ShiftForm Reg8) (s : State) : Host.Outcome State Fault Refusal :=
  outcome (shift (w := 8) salEffect (shiftOperands Reg8.part f) s)

/-- `salw` (R191). -/
def execSalw (f : ShiftForm Reg16) (s : State) : Host.Outcome State Fault Refusal :=
  outcome (shift (w := 16) salEffect (shiftOperands Reg16.part f) s)

/-- `sall` (R191). -/
def execSall (f : ShiftForm Reg32) (s : State) : Host.Outcome State Fault Refusal :=
  outcome (shift (w := 32) salEffect (shiftOperands Reg32.part f) s)

/-- `shlb` (R192). -/
def execShlb (f : ShiftForm Reg8) (s : State) : Host.Outcome State Fault Refusal :=
  outcome (shift (w := 8) salEffect (shiftOperands Reg8.part f) s)

/-- `shlw` (R192). -/
def execShlw (f : ShiftForm Reg16) (s : State) : Host.Outcome State Fault Refusal :=
  outcome (shift (w := 16) salEffect (shiftOperands Reg16.part f) s)

/-- `shll` (R192). -/
def execShll (f : ShiftForm Reg32) (s : State) : Host.Outcome State Fault Refusal :=
  outcome (shift (w := 32) salEffect (shiftOperands Reg32.part f) s)

/-- `shrb` (R194). -/
def execShrb (f : ShiftForm Reg8) (s : State) : Host.Outcome State Fault Refusal :=
  outcome (shift (w := 8) shrEffect (shiftOperands Reg8.part f) s)

/-- `shrw` (R194). -/
def execShrw (f : ShiftForm Reg16) (s : State) : Host.Outcome State Fault Refusal :=
  outcome (shift (w := 16) shrEffect (shiftOperands Reg16.part f) s)

/-- `shrl` (R194). -/
def execShrl (f : ShiftForm Reg32) (s : State) : Host.Outcome State Fault Refusal :=
  outcome (shift (w := 32) shrEffect (shiftOperands Reg32.part f) s)

/-- `sarb` (R193). -/
def execSarb (f : ShiftForm Reg8) (s : State) : Host.Outcome State Fault Refusal :=
  outcome (shift (w := 8) sarEffect (shiftOperands Reg8.part f) s)

/-- `sarw` (R193). -/
def execSarw (f : ShiftForm Reg16) (s : State) : Host.Outcome State Fault Refusal :=
  outcome (shift (w := 16) sarEffect (shiftOperands Reg16.part f) s)

/-- `sarl` (R193). -/
def execSarl (f : ShiftForm Reg32) (s : State) : Host.Outcome State Fault Refusal :=
  outcome (shift (w := 32) sarEffect (shiftOperands Reg32.part f) s)

/-- `shldw` (R195). -/
def execShldw (f : DShiftForm Reg16) (s : State) : Host.Outcome State Fault Refusal :=
  outcome (doubleShift (w := 16) shldEffect (dshiftOperands Reg16.part f) s)

/-- `shldl` (R195). -/
def execShldl (f : DShiftForm Reg32) (s : State) : Host.Outcome State Fault Refusal :=
  outcome (doubleShift (w := 32) shldEffect (dshiftOperands Reg32.part f) s)

/-- `shrdw` (R196). -/
def execShrdw (f : DShiftForm Reg16) (s : State) : Host.Outcome State Fault Refusal :=
  outcome (doubleShift (w := 16) shrdEffect (dshiftOperands Reg16.part f) s)

/-- `shrdl` (R196). -/
def execShrdl (f : DShiftForm Reg32) (s : State) : Host.Outcome State Fault Refusal :=
  outcome (doubleShift (w := 32) shrdEffect (dshiftOperands Reg32.part f) s)

end Sys2Proof.Machine
end

