-- ==== Sys2Proof/Machine/Dispatch.lean ====
section
/-! DEFINITION. One arm per instruction, each a direct call of its meaning. -/

namespace Sys2Proof.Machine

def exec (i : Instr) (s : State) : Host.Outcome State Fault Refusal :=
  match i with
  | .ldsw src dst => Sys2Proof.Machine.execLdsw src dst s
  | .ldsl src dst => Sys2Proof.Machine.execLdsl src dst s
  | .lesw src dst => Sys2Proof.Machine.execLesw src dst s
  | .lesl src dst => Sys2Proof.Machine.execLesl src dst s
  | .lfsw src dst => Sys2Proof.Machine.execLfsw src dst s
  | .lfsl src dst => Sys2Proof.Machine.execLfsl src dst s
  | .lgsw src dst => Sys2Proof.Machine.execLgsw src dst s
  | .lgsl src dst => Sys2Proof.Machine.execLgsl src dst s
  | .lssw src dst => Sys2Proof.Machine.execLssw src dst s
  | .lssl src dst => Sys2Proof.Machine.execLssl src dst s
  | .popw f => Sys2Proof.Machine.execPopw f s
  | .popl f => Sys2Proof.Machine.execPopl f s
  | .pop dst => Sys2Proof.Machine.execPop dst s
  | .pushw f => Sys2Proof.Machine.execPushw f s
  | .pushl f => Sys2Proof.Machine.execPushl f s
  | .push src => Sys2Proof.Machine.execPush src s
  | .inb port => Sys2Proof.Machine.execInb port s
  | .inw port => Sys2Proof.Machine.execInw port s
  | .inl port => Sys2Proof.Machine.execInl port s
  | .insb => Sys2Proof.Machine.execInsb s
  | .rep_insb => Sys2Proof.Machine.execRepInsb s
  | .insw => Sys2Proof.Machine.execInsw s
  | .rep_insw => Sys2Proof.Machine.execRepInsw s
  | .insl => Sys2Proof.Machine.execInsl s
  | .rep_insl => Sys2Proof.Machine.execRepInsl s
  | .outb port => Sys2Proof.Machine.execOutb port s
  | .outw port => Sys2Proof.Machine.execOutw port s
  | .outl port => Sys2Proof.Machine.execOutl port s
  | .outsb seg => Sys2Proof.Machine.execOutsb seg s
  | .rep_outsb seg => Sys2Proof.Machine.execRepOutsb seg s
  | .outsw seg => Sys2Proof.Machine.execOutsw seg s
  | .rep_outsw seg => Sys2Proof.Machine.execRepOutsw seg s
  | .outsl seg => Sys2Proof.Machine.execOutsl seg s
  | .rep_outsl seg => Sys2Proof.Machine.execRepOutsl seg s
  | .lahf => Sys2Proof.Machine.execLahf s
  | .sahf => Sys2Proof.Machine.execSahf s
  | .cmc => Sys2Proof.Machine.execCmc s
  | .clc => Sys2Proof.Machine.execClc s
  | .stc => Sys2Proof.Machine.execStc s
  | .cli => Sys2Proof.Machine.execCli s
  | .sti => Sys2Proof.Machine.execSti s
  | .cld => Sys2Proof.Machine.execCld s
  | .std => Sys2Proof.Machine.execStd s
  | .popfw => Sys2Proof.Machine.execPopfw s
  | .popfl => Sys2Proof.Machine.execPopfl s
  | .pushfw => Sys2Proof.Machine.execPushfw s
  | .pushfl => Sys2Proof.Machine.execPushfl s
  | .addb f => Sys2Proof.Machine.execAddb f s
  | .addw f => Sys2Proof.Machine.execAddw f s
  | .addl f => Sys2Proof.Machine.execAddl f s
  | .orb f => Sys2Proof.Machine.execOrb f s
  | .orw f => Sys2Proof.Machine.execOrw f s
  | .orl f => Sys2Proof.Machine.execOrl f s
  | .adcb f => Sys2Proof.Machine.execAdcb f s
  | .adcw f => Sys2Proof.Machine.execAdcw f s
  | .adcl f => Sys2Proof.Machine.execAdcl f s
  | .sbbb f => Sys2Proof.Machine.execSbbb f s
  | .sbbw f => Sys2Proof.Machine.execSbbw f s
  | .sbbl f => Sys2Proof.Machine.execSbbl f s
  | .andb f => Sys2Proof.Machine.execAndb f s
  | .andw f => Sys2Proof.Machine.execAndw f s
  | .andl f => Sys2Proof.Machine.execAndl f s
  | .subb f => Sys2Proof.Machine.execSubb f s
  | .subw f => Sys2Proof.Machine.execSubw f s
  | .subl f => Sys2Proof.Machine.execSubl f s
  | .xorb f => Sys2Proof.Machine.execXorb f s
  | .xorw f => Sys2Proof.Machine.execXorw f s
  | .xorl f => Sys2Proof.Machine.execXorl f s
  | .cmpb f => Sys2Proof.Machine.execCmpb f s
  | .cmpw f => Sys2Proof.Machine.execCmpw f s
  | .cmpl f => Sys2Proof.Machine.execCmpl f s
  | .incb dst => Sys2Proof.Machine.execIncb dst s
  | .incw f => Sys2Proof.Machine.execIncw f s
  | .incl f => Sys2Proof.Machine.execIncl f s
  | .decb dst => Sys2Proof.Machine.execDecb dst s
  | .decw f => Sys2Proof.Machine.execDecw f s
  | .decl f => Sys2Proof.Machine.execDecl f s
  | .testb f => Sys2Proof.Machine.execTestb f s
  | .testw f => Sys2Proof.Machine.execTestw f s
  | .testl f => Sys2Proof.Machine.execTestl f s
  | .salb f => Sys2Proof.Machine.execSalb f s
  | .salw f => Sys2Proof.Machine.execSalw f s
  | .sall f => Sys2Proof.Machine.execSall f s
  | .shlb f => Sys2Proof.Machine.execShlb f s
  | .shlw f => Sys2Proof.Machine.execShlw f s
  | .shll f => Sys2Proof.Machine.execShll f s
  | .shrb f => Sys2Proof.Machine.execShrb f s
  | .shrw f => Sys2Proof.Machine.execShrw f s
  | .shrl f => Sys2Proof.Machine.execShrl f s
  | .sarb f => Sys2Proof.Machine.execSarb f s
  | .sarw f => Sys2Proof.Machine.execSarw f s
  | .sarl f => Sys2Proof.Machine.execSarl f s
  | .shldw f => Sys2Proof.Machine.execShldw f s
  | .shldl f => Sys2Proof.Machine.execShldl f s
  | .shrdw f => Sys2Proof.Machine.execShrdw f s
  | .shrdl f => Sys2Proof.Machine.execShrdl f s
  | .notb dst => Sys2Proof.Machine.execNotb dst s
  | .notw dst => Sys2Proof.Machine.execNotw dst s
  | .notl dst => Sys2Proof.Machine.execNotl dst s
  | .negb dst => Sys2Proof.Machine.execNegb dst s
  | .negw dst => Sys2Proof.Machine.execNegw dst s
  | .negl dst => Sys2Proof.Machine.execNegl dst s
  | .mulb src => Sys2Proof.Machine.execMulb src s
  | .mulw src => Sys2Proof.Machine.execMulw src s
  | .mull src => Sys2Proof.Machine.execMull src s
  | .mul src => Sys2Proof.Machine.execMul src s
  | .imulb src => Sys2Proof.Machine.execImulb src s
  | .imulw f => Sys2Proof.Machine.execImulw f s
  | .imull f => Sys2Proof.Machine.execImull f s
  | .imul f => Sys2Proof.Machine.execImul f s
  | .divb src => Sys2Proof.Machine.execDivb src s
  | .divw src => Sys2Proof.Machine.execDivw src s
  | .divl src => Sys2Proof.Machine.execDivl src s
  | .div src => Sys2Proof.Machine.execDiv src s
  | .boundw index bounds => Sys2Proof.Machine.execBoundw index bounds s
  | .boundl index bounds => Sys2Proof.Machine.execBoundl index bounds s
  | .jmp f => Sys2Proof.Machine.execJmp f s
  | .jo f => Sys2Proof.Machine.execJo f s
  | .jno f => Sys2Proof.Machine.execJno f s
  | .jb f => Sys2Proof.Machine.execJb f s
  | .jc f => Sys2Proof.Machine.execJc f s
  | .jnae f => Sys2Proof.Machine.execJnae f s
  | .jae f => Sys2Proof.Machine.execJae f s
  | .jnb f => Sys2Proof.Machine.execJnb f s
  | .jnc f => Sys2Proof.Machine.execJnc f s
  | .je f => Sys2Proof.Machine.execJe f s
  | .jz f => Sys2Proof.Machine.execJz f s
  | .jne f => Sys2Proof.Machine.execJne f s
  | .jnz f => Sys2Proof.Machine.execJnz f s
  | .jbe f => Sys2Proof.Machine.execJbe f s
  | .jna f => Sys2Proof.Machine.execJna f s
  | .ja f => Sys2Proof.Machine.execJa f s
  | .jnbe f => Sys2Proof.Machine.execJnbe f s
  | .js f => Sys2Proof.Machine.execJs f s
  | .jns f => Sys2Proof.Machine.execJns f s
  | .jp f => Sys2Proof.Machine.execJp f s
  | .jpe f => Sys2Proof.Machine.execJpe f s
  | .jnp f => Sys2Proof.Machine.execJnp f s
  | .jpo f => Sys2Proof.Machine.execJpo f s
  | .jl f => Sys2Proof.Machine.execJl f s
  | .jnge f => Sys2Proof.Machine.execJnge f s
  | .jge f => Sys2Proof.Machine.execJge f s
  | .jnl f => Sys2Proof.Machine.execJnl f s
  | .jle f => Sys2Proof.Machine.execJle f s
  | .jng f => Sys2Proof.Machine.execJng f s
  | .jg f => Sys2Proof.Machine.execJg f s
  | .jnle f => Sys2Proof.Machine.execJnle f s

end Sys2Proof.Machine
end

