-- ==== Sys2Proof/Machine/Step.lean ====
section
/-! DEFINITION. One step of the machine (`70_reset_and_hazards.md` R292), and the placing of an instruction where the
next step fetches. -/

namespace Sys2Proof.Machine

/-- At `END` the run has ended and nothing changes any more (R293; log 13); else fetch, decode, `len <- number of bytes
decoded`, execute (R292). -/
def step (s : State) : Host.Outcome State Fault Refusal :=
  if ended s then .next s
  else
    match fetch s with
    | .ok (i, n) => exec i (s.setLen (BitVec.ofNat 32 n))
    | .error e => outcome (.error e)

/-- `s` with the table's word, zero bytes after it, as the program text at the place `step` fetches from (log 12). -/
def State.withFetchWord (s : State) (nbits w : Nat) : State := loadText (tableBytes nbits w) s

end Sys2Proof.Machine
end

