-- ==== Sys2Proof/Safety.lean ====
section
/-! DEFINITION. What claims about this machine are stated in: the accesses a state admits, the launch premises that
every step keeps, a safe run, and which bytes lie outside an access. -/

namespace Sys2Proof.Machine

/-- A read of `n` bytes from `a` is performed: it does not run past the top (R52) and is admitted (R272). -/
def State.canRead (s : State) (a : Word) (n : Nat) : Prop :=
  a.toNat + n ≤ addressSpace ∧ memAdmit s a.toNat n .read = true

/-- A write of `n` bytes from `a` is performed: as `canRead`, and outside the program text (R64). -/
def State.canWrite (s : State) (a : Word) (n : Nat) : Prop :=
  a.toNat + n ≤ addressSpace ∧ memAdmit s a.toNat n .write = true ∧ s.plat.text.meets a.toNat n = false

/-- A place that can be read as `w` bits. -/
def Loc.readable (l : Loc) (w : Nat) (s : State) : Prop :=
  match l with
  | .part _ => True
  | .mem a => s.canRead a (w / 8)

/-- A place that can be written with `w` bits. -/
def Loc.writable (l : Loc) (w : Nat) (s : State) : Prop :=
  match l with
  | .part _ => True
  | .mem a => s.canWrite a (w / 8)

/-- Address `b` is none of the `n` bytes from `a`. -/
def outside (b : Nat) (a : Word) (n : Nat) : Prop := b < a.toNat ∨ a.toNat + n ≤ b

/-- Every byte of `t` outside the `n` bytes from `a` is that of `s`. -/
def keepsBytesOutside (a : Word) (n : Nat) (s t : State) : Prop :=
  ∀ b, outside b a n → t.mem.read b = s.mem.read b

/-- Every byte of memory is unchanged. -/
def keepsMemory (s t : State) : Prop := ∀ b, t.mem.read b = s.mem.read b

/-- Every register but those listed is unchanged. -/
def keepsRegistersBut (rs : List Reg32) (s t : State) : Prop := ∀ r, r ∉ rs → t.gpr.get r = s.gpr.get r

/-- The flags outside CF, PF, AF, ZF, SF, OF are unchanged. -/
def keepsControlFlags (s t : State) : Prop :=
  t.flags.tf = s.flags.tf ∧ t.flags.intf = s.flags.intf ∧ t.flags.df = s.flags.df ∧ t.flags.iopl = s.flags.iopl ∧
    t.flags.nt = s.flags.nt ∧ t.flags.rf = s.flags.rf ∧ t.flags.vm = s.flags.vm ∧ t.flags.ac = s.flags.ac

/-- The privilege level, the system registers and the launch parameters are unchanged. -/
def keepsSystem (s t : State) : Prop := t.cpl = s.cpl ∧ t.sys = s.sys ∧ t.plat = s.plat

/-- The ports are untouched: no event, no answer used. -/
def keepsPorts (s t : State) : Prop := t.portLog = s.portLog ∧ t.portAnswers = s.portAnswers

/-- CR0.PE, bit 0 (`10_state.md` R29, R275): protected mode. -/
def State.protectedMode (s : State) : Bool := s.sys.cr0.getLsbD 0

/-- "No debug breakpoint armed in `%db7`" (R275). PRESUMED: its enable bits are bits 7:0 (log 18). -/
def State.noBreakpoint (s : State) : Bool := s.sys.db7.extractLsb' 0 8 == 0#8

/-- No unmodelled exception is armed (`60_exceptions.md` R275: TF = 0, AC = 0, VM = 0, no breakpoint in `%db7`; R291:
RF = 0), and memory is in its canonical form. -/
structure State.Quiet (s : State) : Prop where
  mem : s.mem.wf = true
  tf  : s.flags.tf = false
  ac  : s.flags.ac = false
  vm  : s.flags.vm = false
  rf  : s.flags.rf = false
  db7 : s.noBreakpoint = true

/-- The launch premises: "A run starts, and stays, with" these (R275). The 32-bit code segment is no state: the decoder
has that size alone (R84; log 18). `State.reset` is `Quiet` and not `Launched`, for it is in real-address mode (R290;
log 1). -/
structure State.Launched (s : State) : Prop where
  quiet : s.Quiet
  pe    : s.protectedMode = true

/-- A step that neither faults nor is refused. -/
def safeStep (s : State) : Prop := ∃ t, step s = .next t

/-- `k` executions of one instruction, as long as each answers a next state. -/
def execTimes (i : Instr) : Nat → State → Host.Outcome State Fault Refusal
  | 0, s => .next s
  | k + 1, s =>
    match exec i s with
    | .next t => execTimes i k t
    | .fault f => .fault f
    | .refused r => .refused r

/-! ### What an instruction may change (the Flags and Pseudocode parts of each rule; `10_state.md` R21, R26) -/

def espPart : Part × Nat := (Reg32.part .esp, 32)
def ecxPart : Part × Nat := (Reg32.part .ecx, 32)
def esiPart : Part × Nat := (Reg32.part .esi, 32)
def ediPart : Part × Nat := (Reg32.part .edi, 32)

/-- A register destination of `w` bits. -/
def destParts (w : Nat) : RM Part → List (Part × Nat)
  | .reg p => [(p, w)]
  | .mem _ => []

/-- A memory destination of `w` bits: its address and its bytes. -/
def destBytes (w : Nat) (x : RM Part) (s : State) : Option (Word × Nat) :=
  match locate s x with
  | .part _ => none
  | .mem a => some (a, w / 8)

/-- A shift by 0 stores nothing (R190). -/
def shiftedBytes (w : Nat) (c : Count) (x : RM Part) (s : State) : Option (Word × Nat) :=
  if countValue s c = 0 then none else destBytes w x s

def popLongParts : PopLongForm → List (Part × Nat)
  | .reg r => [espPart, (Reg32.part r, 32)]
  | .rm m => espPart :: destParts 32 (m.map Reg32.part)
  | .sreg _ => [espPart]

def popLongBytes (f : PopLongForm) (s : State) : Option (Word × Nat) :=
  match f with
  | .rm m => destBytes 32 (m.map Reg32.part) (s.popped 32)
  | _ => none

def popLongSegs : PopLongForm → List SReg
  | .sreg r => [r]
  | _ => []

/-- `%ah`:`%al`, `%dx`:`%ax`, `%edx`:`%eax` (R230). -/
def pairParts (w : Nat) : List (Part × Nat) := [(highPart w, w), (acc, w)]

def imulParts {ρ : Type} {w : Nat} (part : ρ → Part) : ImulForm ρ w → List (Part × Nat)
  | .one _ => pairParts w
  | .two _ r => [(part r, w)]
  | .three8 _ _ r => [(part r, w)]
  | .three _ _ r => [(part r, w)]

/-- The register parts an instruction may write: its destination, and the registers its rule also updates. -/
def writtenParts : Instr → List (Part × Nat)
  | .ldsw _ r => [(Reg16.part r, 16)]
  | .ldsl _ r => [(Reg32.part r, 32)]
  | .lesw _ r => [(Reg16.part r, 16)]
  | .lesl _ r => [(Reg32.part r, 32)]
  | .lfsw _ r => [(Reg16.part r, 16)]
  | .lfsl _ r => [(Reg32.part r, 32)]
  | .lgsw _ r => [(Reg16.part r, 16)]
  | .lgsl _ r => [(Reg32.part r, 32)]
  | .lssw _ r => [(Reg16.part r, 16)]
  | .lssl _ r => [(Reg32.part r, 32)]
  | .popw f => espPart :: destParts 16 (popOperand f)
  | .popl f => popLongParts f
  | .pop _ => [espPart]
  | .pushw _ => [espPart]
  | .pushl _ => [espPart]
  | .push _ => [espPart]
  | .inb _ => [(acc, 8)]
  | .inw _ => [(acc, 16)]
  | .inl _ => [(acc, 32)]
  | .insb => [ediPart]
  | .rep_insb => [ediPart, ecxPart]
  | .insw => [ediPart]
  | .rep_insw => [ediPart, ecxPart]
  | .insl => [ediPart]
  | .rep_insl => [ediPart, ecxPart]
  | .outb _ => []
  | .outw _ => []
  | .outl _ => []
  | .outsb _ => [esiPart]
  | .rep_outsb _ => [esiPart, ecxPart]
  | .outsw _ => [esiPart]
  | .rep_outsw _ => [esiPart, ecxPart]
  | .outsl _ => [esiPart]
  | .rep_outsl _ => [esiPart, ecxPart]
  | .lahf => [(partAH, 8)]
  | .sahf => []
  | .cmc => []
  | .clc => []
  | .stc => []
  | .cli => []
  | .sti => []
  | .cld => []
  | .std => []
  | .popfw => [espPart]
  | .popfl => [espPart]
  | .pushfw => [espPart]
  | .pushfl => [espPart]
  | .addb f => destParts 8 (aluOperands Reg8.part f).2
  | .addw f => destParts 16 (aluOperands Reg16.part f).2
  | .addl f => destParts 32 (aluOperands Reg32.part f).2
  | .orb f => destParts 8 (aluOperands Reg8.part f).2
  | .orw f => destParts 16 (aluOperands Reg16.part f).2
  | .orl f => destParts 32 (aluOperands Reg32.part f).2
  | .adcb f => destParts 8 (aluOperands Reg8.part f).2
  | .adcw f => destParts 16 (aluOperands Reg16.part f).2
  | .adcl f => destParts 32 (aluOperands Reg32.part f).2
  | .sbbb f => destParts 8 (aluOperands Reg8.part f).2
  | .sbbw f => destParts 16 (aluOperands Reg16.part f).2
  | .sbbl f => destParts 32 (aluOperands Reg32.part f).2
  | .andb f => destParts 8 (aluOperands Reg8.part f).2
  | .andw f => destParts 16 (aluOperands Reg16.part f).2
  | .andl f => destParts 32 (aluOperands Reg32.part f).2
  | .subb f => destParts 8 (aluOperands Reg8.part f).2
  | .subw f => destParts 16 (aluOperands Reg16.part f).2
  | .subl f => destParts 32 (aluOperands Reg32.part f).2
  | .xorb f => destParts 8 (aluOperands Reg8.part f).2
  | .xorw f => destParts 16 (aluOperands Reg16.part f).2
  | .xorl f => destParts 32 (aluOperands Reg32.part f).2
  | .cmpb _ => []
  | .cmpw _ => []
  | .cmpl _ => []
  | .incb m => destParts 8 (m.map Reg8.part)
  | .incw f => destParts 16 (incOperand Reg16.part f)
  | .incl f => destParts 32 (incOperand Reg32.part f)
  | .decb m => destParts 8 (m.map Reg8.part)
  | .decw f => destParts 16 (incOperand Reg16.part f)
  | .decl f => destParts 32 (incOperand Reg32.part f)
  | .testb _ => []
  | .testw _ => []
  | .testl _ => []
  | .salb f => destParts 8 (shiftOperands Reg8.part f).2
  | .salw f => destParts 16 (shiftOperands Reg16.part f).2
  | .sall f => destParts 32 (shiftOperands Reg32.part f).2
  | .shlb f => destParts 8 (shiftOperands Reg8.part f).2
  | .shlw f => destParts 16 (shiftOperands Reg16.part f).2
  | .shll f => destParts 32 (shiftOperands Reg32.part f).2
  | .shrb f => destParts 8 (shiftOperands Reg8.part f).2
  | .shrw f => destParts 16 (shiftOperands Reg16.part f).2
  | .shrl f => destParts 32 (shiftOperands Reg32.part f).2
  | .sarb f => destParts 8 (shiftOperands Reg8.part f).2
  | .sarw f => destParts 16 (shiftOperands Reg16.part f).2
  | .sarl f => destParts 32 (shiftOperands Reg32.part f).2
  | .shldw f => destParts 16 (dshiftOperands Reg16.part f).2.2
  | .shldl f => destParts 32 (dshiftOperands Reg32.part f).2.2
  | .shrdw f => destParts 16 (dshiftOperands Reg16.part f).2.2
  | .shrdl f => destParts 32 (dshiftOperands Reg32.part f).2.2
  | .notb m => destParts 8 (m.map Reg8.part)
  | .notw m => destParts 16 (m.map Reg16.part)
  | .notl m => destParts 32 (m.map Reg32.part)
  | .negb m => destParts 8 (m.map Reg8.part)
  | .negw m => destParts 16 (m.map Reg16.part)
  | .negl m => destParts 32 (m.map Reg32.part)
  | .mulb _ => pairParts 8
  | .mulw _ => pairParts 16
  | .mull _ => pairParts 32
  | .mul _ => pairParts 32
  | .imulb _ => pairParts 8
  | .imulw f => imulParts Reg16.part f
  | .imull f => imulParts Reg32.part f
  | .imul f => imulParts Reg32.part f
  | .divb _ => pairParts 8
  | .divw _ => pairParts 16
  | .divl _ => pairParts 32
  | .div _ => pairParts 32
  | .boundw _ _ => []
  | .boundl _ _ => []
  | .jmp _ => []
  | .jo _ => []
  | .jno _ => []
  | .jb _ => []
  | .jc _ => []
  | .jnae _ => []
  | .jae _ => []
  | .jnb _ => []
  | .jnc _ => []
  | .je _ => []
  | .jz _ => []
  | .jne _ => []
  | .jnz _ => []
  | .jbe _ => []
  | .jna _ => []
  | .ja _ => []
  | .jnbe _ => []
  | .js _ => []
  | .jns _ => []
  | .jp _ => []
  | .jpe _ => []
  | .jnp _ => []
  | .jpo _ => []
  | .jl _ => []
  | .jnge _ => []
  | .jge _ => []
  | .jnl _ => []
  | .jle _ => []
  | .jng _ => []
  | .jg _ => []
  | .jnle _ => []

/-- The bytes an instruction stores to: the address, computed as its meaning computes it, and how many. -/
def storedBytes (i : Instr) (s : State) : Option (Word × Nat) :=
  match i with
  | .ldsw _ _ => none
  | .ldsl _ _ => none
  | .lesw _ _ => none
  | .lesl _ _ => none
  | .lfsw _ _ => none
  | .lfsl _ _ => none
  | .lgsw _ _ => none
  | .lgsl _ _ => none
  | .lssw _ _ => none
  | .lssl _ _ => none
  | .popw f => destBytes 16 (popOperand f) (s.popped 16)
  | .popl f => popLongBytes f s
  | .pop _ => none
  | .pushw _ => some (pushAddress 16 s, 2)
  | .pushl _ => some (pushAddress 32 s, 4)
  | .push _ => some (pushAddress 32 s, 4)
  | .inb _ => none
  | .inw _ => none
  | .inl _ => none
  | .insb => some (insAddress s, 1)
  | .rep_insb => if s.gpr.ecx = 0#32 then none else some (insAddress s, 1)
  | .insw => some (insAddress s, 2)
  | .rep_insw => if s.gpr.ecx = 0#32 then none else some (insAddress s, 2)
  | .insl => some (insAddress s, 4)
  | .rep_insl => if s.gpr.ecx = 0#32 then none else some (insAddress s, 4)
  | .outb _ => none
  | .outw _ => none
  | .outl _ => none
  | .outsb _ => none
  | .rep_outsb _ => none
  | .outsw _ => none
  | .rep_outsw _ => none
  | .outsl _ => none
  | .rep_outsl _ => none
  | .lahf => none
  | .sahf => none
  | .cmc => none
  | .clc => none
  | .stc => none
  | .cli => none
  | .sti => none
  | .cld => none
  | .std => none
  | .popfw => none
  | .popfl => none
  | .pushfw => some (pushAddress 16 s, 2)
  | .pushfl => some (pushAddress 32 s, 4)
  | .addb f => destBytes 8 (aluOperands Reg8.part f).2 s
  | .addw f => destBytes 16 (aluOperands Reg16.part f).2 s
  | .addl f => destBytes 32 (aluOperands Reg32.part f).2 s
  | .orb f => destBytes 8 (aluOperands Reg8.part f).2 s
  | .orw f => destBytes 16 (aluOperands Reg16.part f).2 s
  | .orl f => destBytes 32 (aluOperands Reg32.part f).2 s
  | .adcb f => destBytes 8 (aluOperands Reg8.part f).2 s
  | .adcw f => destBytes 16 (aluOperands Reg16.part f).2 s
  | .adcl f => destBytes 32 (aluOperands Reg32.part f).2 s
  | .sbbb f => destBytes 8 (aluOperands Reg8.part f).2 s
  | .sbbw f => destBytes 16 (aluOperands Reg16.part f).2 s
  | .sbbl f => destBytes 32 (aluOperands Reg32.part f).2 s
  | .andb f => destBytes 8 (aluOperands Reg8.part f).2 s
  | .andw f => destBytes 16 (aluOperands Reg16.part f).2 s
  | .andl f => destBytes 32 (aluOperands Reg32.part f).2 s
  | .subb f => destBytes 8 (aluOperands Reg8.part f).2 s
  | .subw f => destBytes 16 (aluOperands Reg16.part f).2 s
  | .subl f => destBytes 32 (aluOperands Reg32.part f).2 s
  | .xorb f => destBytes 8 (aluOperands Reg8.part f).2 s
  | .xorw f => destBytes 16 (aluOperands Reg16.part f).2 s
  | .xorl f => destBytes 32 (aluOperands Reg32.part f).2 s
  | .cmpb _ => none
  | .cmpw _ => none
  | .cmpl _ => none
  | .incb m => destBytes 8 (m.map Reg8.part) s
  | .incw f => destBytes 16 (incOperand Reg16.part f) s
  | .incl f => destBytes 32 (incOperand Reg32.part f) s
  | .decb m => destBytes 8 (m.map Reg8.part) s
  | .decw f => destBytes 16 (incOperand Reg16.part f) s
  | .decl f => destBytes 32 (incOperand Reg32.part f) s
  | .testb _ => none
  | .testw _ => none
  | .testl _ => none
  | .salb f => shiftedBytes 8 (shiftOperands Reg8.part f).1 (shiftOperands Reg8.part f).2 s
  | .salw f => shiftedBytes 16 (shiftOperands Reg16.part f).1 (shiftOperands Reg16.part f).2 s
  | .sall f => shiftedBytes 32 (shiftOperands Reg32.part f).1 (shiftOperands Reg32.part f).2 s
  | .shlb f => shiftedBytes 8 (shiftOperands Reg8.part f).1 (shiftOperands Reg8.part f).2 s
  | .shlw f => shiftedBytes 16 (shiftOperands Reg16.part f).1 (shiftOperands Reg16.part f).2 s
  | .shll f => shiftedBytes 32 (shiftOperands Reg32.part f).1 (shiftOperands Reg32.part f).2 s
  | .shrb f => shiftedBytes 8 (shiftOperands Reg8.part f).1 (shiftOperands Reg8.part f).2 s
  | .shrw f => shiftedBytes 16 (shiftOperands Reg16.part f).1 (shiftOperands Reg16.part f).2 s
  | .shrl f => shiftedBytes 32 (shiftOperands Reg32.part f).1 (shiftOperands Reg32.part f).2 s
  | .sarb f => shiftedBytes 8 (shiftOperands Reg8.part f).1 (shiftOperands Reg8.part f).2 s
  | .sarw f => shiftedBytes 16 (shiftOperands Reg16.part f).1 (shiftOperands Reg16.part f).2 s
  | .sarl f => shiftedBytes 32 (shiftOperands Reg32.part f).1 (shiftOperands Reg32.part f).2 s
  | .shldw f => shiftedBytes 16 (dshiftOperands Reg16.part f).1 (dshiftOperands Reg16.part f).2.2 s
  | .shldl f => shiftedBytes 32 (dshiftOperands Reg32.part f).1 (dshiftOperands Reg32.part f).2.2 s
  | .shrdw f => shiftedBytes 16 (dshiftOperands Reg16.part f).1 (dshiftOperands Reg16.part f).2.2 s
  | .shrdl f => shiftedBytes 32 (dshiftOperands Reg32.part f).1 (dshiftOperands Reg32.part f).2.2 s
  | .notb m => destBytes 8 (m.map Reg8.part) s
  | .notw m => destBytes 16 (m.map Reg16.part) s
  | .notl m => destBytes 32 (m.map Reg32.part) s
  | .negb m => destBytes 8 (m.map Reg8.part) s
  | .negw m => destBytes 16 (m.map Reg16.part) s
  | .negl m => destBytes 32 (m.map Reg32.part) s
  | .mulb _ => none
  | .mulw _ => none
  | .mull _ => none
  | .mul _ => none
  | .imulb _ => none
  | .imulw _ => none
  | .imull _ => none
  | .imul _ => none
  | .divb _ => none
  | .divw _ => none
  | .divl _ => none
  | .div _ => none
  | .boundw _ _ => none
  | .boundl _ _ => none
  | .jmp _ => none
  | .jo _ => none
  | .jno _ => none
  | .jb _ => none
  | .jc _ => none
  | .jnae _ => none
  | .jae _ => none
  | .jnb _ => none
  | .jnc _ => none
  | .je _ => none
  | .jz _ => none
  | .jne _ => none
  | .jnz _ => none
  | .jbe _ => none
  | .jna _ => none
  | .ja _ => none
  | .jnbe _ => none
  | .js _ => none
  | .jns _ => none
  | .jp _ => none
  | .jpe _ => none
  | .jnp _ => none
  | .jpo _ => none
  | .jl _ => none
  | .jnge _ => none
  | .jge _ => none
  | .jnl _ => none
  | .jle _ => none
  | .jng _ => none
  | .jg _ => none
  | .jnle _ => none

/-- An `r/m` operand that is read: its address and its bytes, if it is in memory. -/
def rmBytes (w : Nat) (x : RM Part) (s : State) : List (Word × Nat) := (destBytes w x s).toList

def srcBytes {w : Nat} (x : Src w) (s : State) : List (Word × Nat) :=
  match x with
  | .imm _ => []
  | .rm m => rmBytes w m s

/-- Both operands of `op S, D`. -/
def bothBytes (w : Nat) (x : Src w × RM Part) (s : State) : List (Word × Nat) := srcBytes x.1 s ++ rmBytes w x.2 s

def pushLongBytes (f : PushLongForm) (s : State) : List (Word × Nat) :=
  match f with
  | .rm m => rmBytes 32 (m.map Reg32.part) s
  | _ => []

def imulBytes {ρ : Type} {w : Nat} (part : ρ → Part) (f : ImulForm ρ w) (s : State) : List (Word × Nat) :=
  match f with
  | .one m => rmBytes w (m.map part) s
  | .two m _ => rmBytes w (m.map part) s
  | .three8 _ m _ => rmBytes w (m.map part) s
  | .three _ m _ => rmBytes w (m.map part) s

/-- The offset and the selector of a full pointer (R100). -/
def pointerSlots (w : Nat) (m : MemOp) (s : State) : List (Word × Nat) :=
  [(operandAddress s m, w / 8), (operandAddress s m + itemStep w, 2)]

/-- The two bounds (R212). -/
def boundSlots (w : Nat) (m : MemOp) (s : State) : List (Word × Nat) :=
  [(operandAddress s m, w / 8), (upperBoundAddress w m s, w / 8)]

/-- The item at the top of the stack (R59). -/
def stackTop (w : Nat) (s : State) : List (Word × Nat) := [(s.linear .ss s.gpr.esp, w / 8)]

/-- The item `outs` sends (R125). -/
def outsSlot (w : Nat) (g : Option SReg) (s : State) : List (Word × Nat) := [(s.linear (g.getD .ds) s.gpr.esi, w / 8)]

/-- The memory an instruction reads: each access by its address, computed as its meaning computes it, and its bytes. -/
def loadedBytes (i : Instr) (s : State) : List (Word × Nat) :=
  match i with
  | .ldsw m _ => pointerSlots 16 m s
  | .ldsl m _ => pointerSlots 32 m s
  | .lesw m _ => pointerSlots 16 m s
  | .lesl m _ => pointerSlots 32 m s
  | .lfsw m _ => pointerSlots 16 m s
  | .lfsl m _ => pointerSlots 32 m s
  | .lgsw m _ => pointerSlots 16 m s
  | .lgsl m _ => pointerSlots 32 m s
  | .lssw m _ => pointerSlots 16 m s
  | .lssl m _ => pointerSlots 32 m s
  | .popw _ => stackTop 16 s
  | .popl _ => stackTop 32 s
  | .pop _ => stackTop 32 s
  | .pushw f => srcBytes (pushOperand f) s
  | .pushl f => pushLongBytes f s
  | .push _ => []
  | .inb _ => []
  | .inw _ => []
  | .inl _ => []
  | .insb => []
  | .rep_insb => []
  | .insw => []
  | .rep_insw => []
  | .insl => []
  | .rep_insl => []
  | .outb _ => []
  | .outw _ => []
  | .outl _ => []
  | .outsb g => outsSlot 8 g s
  | .rep_outsb g => if s.gpr.ecx = 0#32 then [] else outsSlot 8 g s
  | .outsw g => outsSlot 16 g s
  | .rep_outsw g => if s.gpr.ecx = 0#32 then [] else outsSlot 16 g s
  | .outsl g => outsSlot 32 g s
  | .rep_outsl g => if s.gpr.ecx = 0#32 then [] else outsSlot 32 g s
  | .lahf => []
  | .sahf => []
  | .cmc => []
  | .clc => []
  | .stc => []
  | .cli => []
  | .sti => []
  | .cld => []
  | .std => []
  | .popfw => stackTop 16 s
  | .popfl => stackTop 32 s
  | .pushfw => []
  | .pushfl => []
  | .addb f => bothBytes 8 (aluOperands Reg8.part f) s
  | .addw f => bothBytes 16 (aluOperands Reg16.part f) s
  | .addl f => bothBytes 32 (aluOperands Reg32.part f) s
  | .orb f => bothBytes 8 (aluOperands Reg8.part f) s
  | .orw f => bothBytes 16 (aluOperands Reg16.part f) s
  | .orl f => bothBytes 32 (aluOperands Reg32.part f) s
  | .adcb f => bothBytes 8 (aluOperands Reg8.part f) s
  | .adcw f => bothBytes 16 (aluOperands Reg16.part f) s
  | .adcl f => bothBytes 32 (aluOperands Reg32.part f) s
  | .sbbb f => bothBytes 8 (aluOperands Reg8.part f) s
  | .sbbw f => bothBytes 16 (aluOperands Reg16.part f) s
  | .sbbl f => bothBytes 32 (aluOperands Reg32.part f) s
  | .andb f => bothBytes 8 (aluOperands Reg8.part f) s
  | .andw f => bothBytes 16 (aluOperands Reg16.part f) s
  | .andl f => bothBytes 32 (aluOperands Reg32.part f) s
  | .subb f => bothBytes 8 (aluOperands Reg8.part f) s
  | .subw f => bothBytes 16 (aluOperands Reg16.part f) s
  | .subl f => bothBytes 32 (aluOperands Reg32.part f) s
  | .xorb f => bothBytes 8 (aluOperands Reg8.part f) s
  | .xorw f => bothBytes 16 (aluOperands Reg16.part f) s
  | .xorl f => bothBytes 32 (aluOperands Reg32.part f) s
  | .cmpb f => bothBytes 8 (aluOperands Reg8.part f) s
  | .cmpw f => bothBytes 16 (aluOperands Reg16.part f) s
  | .cmpl f => bothBytes 32 (aluOperands Reg32.part f) s
  | .incb m => rmBytes 8 (m.map Reg8.part) s
  | .incw f => rmBytes 16 (incOperand Reg16.part f) s
  | .incl f => rmBytes 32 (incOperand Reg32.part f) s
  | .decb m => rmBytes 8 (m.map Reg8.part) s
  | .decw f => rmBytes 16 (incOperand Reg16.part f) s
  | .decl f => rmBytes 32 (incOperand Reg32.part f) s
  | .testb f => bothBytes 8 (testOperands Reg8.part f) s
  | .testw f => bothBytes 16 (testOperands Reg16.part f) s
  | .testl f => bothBytes 32 (testOperands Reg32.part f) s
  | .salb f => rmBytes 8 (shiftOperands Reg8.part f).2 s
  | .salw f => rmBytes 16 (shiftOperands Reg16.part f).2 s
  | .sall f => rmBytes 32 (shiftOperands Reg32.part f).2 s
  | .shlb f => rmBytes 8 (shiftOperands Reg8.part f).2 s
  | .shlw f => rmBytes 16 (shiftOperands Reg16.part f).2 s
  | .shll f => rmBytes 32 (shiftOperands Reg32.part f).2 s
  | .shrb f => rmBytes 8 (shiftOperands Reg8.part f).2 s
  | .shrw f => rmBytes 16 (shiftOperands Reg16.part f).2 s
  | .shrl f => rmBytes 32 (shiftOperands Reg32.part f).2 s
  | .sarb f => rmBytes 8 (shiftOperands Reg8.part f).2 s
  | .sarw f => rmBytes 16 (shiftOperands Reg16.part f).2 s
  | .sarl f => rmBytes 32 (shiftOperands Reg32.part f).2 s
  | .shldw f => rmBytes 16 (dshiftOperands Reg16.part f).2.2 s
  | .shldl f => rmBytes 32 (dshiftOperands Reg32.part f).2.2 s
  | .shrdw f => rmBytes 16 (dshiftOperands Reg16.part f).2.2 s
  | .shrdl f => rmBytes 32 (dshiftOperands Reg32.part f).2.2 s
  | .notb m => rmBytes 8 (m.map Reg8.part) s
  | .notw m => rmBytes 16 (m.map Reg16.part) s
  | .notl m => rmBytes 32 (m.map Reg32.part) s
  | .negb m => rmBytes 8 (m.map Reg8.part) s
  | .negw m => rmBytes 16 (m.map Reg16.part) s
  | .negl m => rmBytes 32 (m.map Reg32.part) s
  | .mulb m => rmBytes 8 (m.map Reg8.part) s
  | .mulw m => rmBytes 16 (m.map Reg16.part) s
  | .mull m => rmBytes 32 (m.map Reg32.part) s
  | .mul m => rmBytes 32 (m.map Reg32.part) s
  | .imulb m => rmBytes 8 (m.map Reg8.part) s
  | .imulw f => imulBytes Reg16.part f s
  | .imull f => imulBytes Reg32.part f s
  | .imul f => imulBytes Reg32.part f s
  | .divb m => rmBytes 8 (m.map Reg8.part) s
  | .divw m => rmBytes 16 (m.map Reg16.part) s
  | .divl m => rmBytes 32 (m.map Reg32.part) s
  | .div m => rmBytes 32 (m.map Reg32.part) s
  | .boundw _ m => boundSlots 16 m s
  | .boundl _ m => boundSlots 32 m s
  | .jmp _ => []
  | .jo _ => []
  | .jno _ => []
  | .jb _ => []
  | .jc _ => []
  | .jnae _ => []
  | .jae _ => []
  | .jnb _ => []
  | .jnc _ => []
  | .je _ => []
  | .jz _ => []
  | .jne _ => []
  | .jnz _ => []
  | .jbe _ => []
  | .jna _ => []
  | .ja _ => []
  | .jnbe _ => []
  | .js _ => []
  | .jns _ => []
  | .jp _ => []
  | .jpe _ => []
  | .jnp _ => []
  | .jpo _ => []
  | .jl _ => []
  | .jnge _ => []
  | .jge _ => []
  | .jnl _ => []
  | .jle _ => []
  | .jng _ => []
  | .jg _ => []
  | .jnle _ => []

/-- The segment registers an instruction writes. -/
def writtenSegments : Instr → List SReg
  | .ldsw _ _ => [.ds]
  | .ldsl _ _ => [.ds]
  | .lesw _ _ => [.es]
  | .lesl _ _ => [.es]
  | .lfsw _ _ => [.fs]
  | .lfsl _ _ => [.fs]
  | .lgsw _ _ => [.gs]
  | .lgsl _ _ => [.gs]
  | .lssw _ _ => [.ss]
  | .lssl _ _ => [.ss]
  | .popw _ => []
  | .popl f => popLongSegs f
  | .pop r => [r]
  | .pushw _ => []
  | .pushl _ => []
  | .push _ => []
  | .inb _ => []
  | .inw _ => []
  | .inl _ => []
  | .insb => []
  | .rep_insb => []
  | .insw => []
  | .rep_insw => []
  | .insl => []
  | .rep_insl => []
  | .outb _ => []
  | .outw _ => []
  | .outl _ => []
  | .outsb _ => []
  | .rep_outsb _ => []
  | .outsw _ => []
  | .rep_outsw _ => []
  | .outsl _ => []
  | .rep_outsl _ => []
  | .lahf => []
  | .sahf => []
  | .cmc => []
  | .clc => []
  | .stc => []
  | .cli => []
  | .sti => []
  | .cld => []
  | .std => []
  | .popfw => []
  | .popfl => []
  | .pushfw => []
  | .pushfl => []
  | .addb _ => []
  | .addw _ => []
  | .addl _ => []
  | .orb _ => []
  | .orw _ => []
  | .orl _ => []
  | .adcb _ => []
  | .adcw _ => []
  | .adcl _ => []
  | .sbbb _ => []
  | .sbbw _ => []
  | .sbbl _ => []
  | .andb _ => []
  | .andw _ => []
  | .andl _ => []
  | .subb _ => []
  | .subw _ => []
  | .subl _ => []
  | .xorb _ => []
  | .xorw _ => []
  | .xorl _ => []
  | .cmpb _ => []
  | .cmpw _ => []
  | .cmpl _ => []
  | .incb _ => []
  | .incw _ => []
  | .incl _ => []
  | .decb _ => []
  | .decw _ => []
  | .decl _ => []
  | .testb _ => []
  | .testw _ => []
  | .testl _ => []
  | .salb _ => []
  | .salw _ => []
  | .sall _ => []
  | .shlb _ => []
  | .shlw _ => []
  | .shll _ => []
  | .shrb _ => []
  | .shrw _ => []
  | .shrl _ => []
  | .sarb _ => []
  | .sarw _ => []
  | .sarl _ => []
  | .shldw _ => []
  | .shldl _ => []
  | .shrdw _ => []
  | .shrdl _ => []
  | .notb _ => []
  | .notw _ => []
  | .notl _ => []
  | .negb _ => []
  | .negw _ => []
  | .negl _ => []
  | .mulb _ => []
  | .mulw _ => []
  | .mull _ => []
  | .mul _ => []
  | .imulb _ => []
  | .imulw _ => []
  | .imull _ => []
  | .imul _ => []
  | .divb _ => []
  | .divw _ => []
  | .divl _ => []
  | .div _ => []
  | .boundw _ _ => []
  | .boundl _ _ => []
  | .jmp _ => []
  | .jo _ => []
  | .jno _ => []
  | .jb _ => []
  | .jc _ => []
  | .jnae _ => []
  | .jae _ => []
  | .jnb _ => []
  | .jnc _ => []
  | .je _ => []
  | .jz _ => []
  | .jne _ => []
  | .jnz _ => []
  | .jbe _ => []
  | .jna _ => []
  | .ja _ => []
  | .jnbe _ => []
  | .js _ => []
  | .jns _ => []
  | .jp _ => []
  | .jpe _ => []
  | .jnp _ => []
  | .jpo _ => []
  | .jl _ => []
  | .jnge _ => []
  | .jge _ => []
  | .jnl _ => []
  | .jle _ => []
  | .jng _ => []
  | .jg _ => []
  | .jnle _ => []

/-- Which flags an instruction may change (R26). -/
inductive FlagClass where
  /-- none -/
  | kept
  /-- CF, PF, AF, ZF, SF, OF -/
  | status
  /-- PF, AF, ZF, SF, OF -/
  | statusButCarry
  /-- CF, PF, AF, ZF, SF -/
  | byteLoaded
  /-- CF -/
  | carry
  /-- IF -/
  | interrupt
  /-- DF -/
  | direction
  /-- all but TF, RF, VM, AC -/
  | image
  deriving DecidableEq, Repr

/-- The flags `new` differ from `old` in the class's flags at most. -/
def FlagClass.allows (c : FlagClass) (new old : Flags) : Prop :=
  match c with
  | .kept => new = old
  | .status =>
    new = { old with cf := new.cf, pf := new.pf, af := new.af, zf := new.zf, sf := new.sf, of := new.of }
  | .statusButCarry => new = { old with pf := new.pf, af := new.af, zf := new.zf, sf := new.sf, of := new.of }
  | .byteLoaded => new = { old with cf := new.cf, pf := new.pf, af := new.af, zf := new.zf, sf := new.sf }
  | .carry => new = { old with cf := new.cf }
  | .interrupt => new = { old with intf := new.intf }
  | .direction => new = { old with df := new.df }
  | .image => new = { new with tf := old.tf, rf := old.rf, vm := old.vm, ac := old.ac }

def flagClass : Instr → FlagClass
  | .ldsw _ _ => .kept
  | .ldsl _ _ => .kept
  | .lesw _ _ => .kept
  | .lesl _ _ => .kept
  | .lfsw _ _ => .kept
  | .lfsl _ _ => .kept
  | .lgsw _ _ => .kept
  | .lgsl _ _ => .kept
  | .lssw _ _ => .kept
  | .lssl _ _ => .kept
  | .popw _ => .kept
  | .popl _ => .kept
  | .pop _ => .kept
  | .pushw _ => .kept
  | .pushl _ => .kept
  | .push _ => .kept
  | .inb _ => .kept
  | .inw _ => .kept
  | .inl _ => .kept
  | .insb => .kept
  | .rep_insb => .kept
  | .insw => .kept
  | .rep_insw => .kept
  | .insl => .kept
  | .rep_insl => .kept
  | .outb _ => .kept
  | .outw _ => .kept
  | .outl _ => .kept
  | .outsb _ => .kept
  | .rep_outsb _ => .kept
  | .outsw _ => .kept
  | .rep_outsw _ => .kept
  | .outsl _ => .kept
  | .rep_outsl _ => .kept
  | .lahf => .kept
  | .sahf => .byteLoaded
  | .cmc => .carry
  | .clc => .carry
  | .stc => .carry
  | .cli => .interrupt
  | .sti => .interrupt
  | .cld => .direction
  | .std => .direction
  | .popfw => .image
  | .popfl => .image
  | .pushfw => .kept
  | .pushfl => .kept
  | .addb _ => .status
  | .addw _ => .status
  | .addl _ => .status
  | .orb _ => .status
  | .orw _ => .status
  | .orl _ => .status
  | .adcb _ => .status
  | .adcw _ => .status
  | .adcl _ => .status
  | .sbbb _ => .status
  | .sbbw _ => .status
  | .sbbl _ => .status
  | .andb _ => .status
  | .andw _ => .status
  | .andl _ => .status
  | .subb _ => .status
  | .subw _ => .status
  | .subl _ => .status
  | .xorb _ => .status
  | .xorw _ => .status
  | .xorl _ => .status
  | .cmpb _ => .status
  | .cmpw _ => .status
  | .cmpl _ => .status
  | .incb _ => .statusButCarry
  | .incw _ => .statusButCarry
  | .incl _ => .statusButCarry
  | .decb _ => .statusButCarry
  | .decw _ => .statusButCarry
  | .decl _ => .statusButCarry
  | .testb _ => .status
  | .testw _ => .status
  | .testl _ => .status
  | .salb _ => .status
  | .salw _ => .status
  | .sall _ => .status
  | .shlb _ => .status
  | .shlw _ => .status
  | .shll _ => .status
  | .shrb _ => .status
  | .shrw _ => .status
  | .shrl _ => .status
  | .sarb _ => .status
  | .sarw _ => .status
  | .sarl _ => .status
  | .shldw _ => .status
  | .shldl _ => .status
  | .shrdw _ => .status
  | .shrdl _ => .status
  | .notb _ => .kept
  | .notw _ => .kept
  | .notl _ => .kept
  | .negb _ => .status
  | .negw _ => .status
  | .negl _ => .status
  | .mulb _ => .status
  | .mulw _ => .status
  | .mull _ => .status
  | .mul _ => .status
  | .imulb _ => .status
  | .imulw _ => .status
  | .imull _ => .status
  | .imul _ => .status
  | .divb _ => .status
  | .divw _ => .status
  | .divl _ => .status
  | .div _ => .status
  | .boundw _ _ => .kept
  | .boundl _ _ => .kept
  | .jmp _ => .kept
  | .jo _ => .kept
  | .jno _ => .kept
  | .jb _ => .kept
  | .jc _ => .kept
  | .jnae _ => .kept
  | .jae _ => .kept
  | .jnb _ => .kept
  | .jnc _ => .kept
  | .je _ => .kept
  | .jz _ => .kept
  | .jne _ => .kept
  | .jnz _ => .kept
  | .jbe _ => .kept
  | .jna _ => .kept
  | .ja _ => .kept
  | .jnbe _ => .kept
  | .js _ => .kept
  | .jns _ => .kept
  | .jp _ => .kept
  | .jpe _ => .kept
  | .jnp _ => .kept
  | .jpo _ => .kept
  | .jl _ => .kept
  | .jnge _ => .kept
  | .jge _ => .kept
  | .jnl _ => .kept
  | .jle _ => .kept
  | .jng _ => .kept
  | .jg _ => .kept
  | .jnle _ => .kept

/-- The instructions that set `pc` to a target (R251, R252). -/
def isJump : Instr → Bool
  | .jmp _ => true
  | .jo _ => true
  | .jno _ => true
  | .jb _ => true
  | .jc _ => true
  | .jnae _ => true
  | .jae _ => true
  | .jnb _ => true
  | .jnc _ => true
  | .je _ => true
  | .jz _ => true
  | .jne _ => true
  | .jnz _ => true
  | .jbe _ => true
  | .jna _ => true
  | .ja _ => true
  | .jnbe _ => true
  | .js _ => true
  | .jns _ => true
  | .jp _ => true
  | .jpe _ => true
  | .jnp _ => true
  | .jpo _ => true
  | .jl _ => true
  | .jnge _ => true
  | .jge _ => true
  | .jnl _ => true
  | .jle _ => true
  | .jng _ => true
  | .jg _ => true
  | .jnle _ => true
  | _ => false

/-- The instructions with a `rep` prefix (R126). -/
def isRepeated : Instr → Bool
  | .rep_insb => true
  | .rep_insw => true
  | .rep_insl => true
  | .rep_outsb _ => true
  | .rep_outsw _ => true
  | .rep_outsl _ => true
  | _ => false

/-- The instructions that access a port (R120 to R126). -/
def isPortAccess : Instr → Bool
  | .inb _ => true
  | .inw _ => true
  | .inl _ => true
  | .insb => true
  | .rep_insb => true
  | .insw => true
  | .rep_insw => true
  | .insl => true
  | .rep_insl => true
  | .outb _ => true
  | .outw _ => true
  | .outl _ => true
  | .outsb _ => true
  | .rep_outsb _ => true
  | .outsw _ => true
  | .rep_outsw _ => true
  | .outsl _ => true
  | .rep_outsl _ => true
  | _ => false

/-- The instructions after which external interrupts are held off: `sti`, and those that load `%ss` (R35). -/
def castsShadow : Instr → Bool
  | .sti => true
  | i => (writtenSegments i).contains .ss

/-- A bit of a register that none of the parts holds. -/
def outsideParts (ps : List (Part × Nat)) (r : Reg32) (b : Nat) : Prop :=
  ∀ p ∈ ps, ¬ (p.1.reg = r ∧ p.1.lo ≤ b ∧ b < p.1.lo + p.2)

end Sys2Proof.Machine
end

