-- ==== Sys2Proof/Certificates/Slice0/Obligations.lean ====
section
/-! DEFINITION. The statements about this machine, for the provers. First the vocabulary they share, written in terms
of numbers and bits; then one `def` per statement. -/

namespace Sys2Proof.Machine

/-! ### What the flag rules say, in numbers (`10_state.md` R27) -/

/-- The number of 1 bits in the low byte. -/
def lowByteOnes {w : Nat} (r : BitVec w) : Nat := ((List.range 8).filter (fun i => r.getLsbD i)).length

/-- SF, ZF, PF "set according to the result". -/
def resultFlags {w : Nat} (r : BitVec w) (f : Flags) : Prop :=
  (f.sf = true ↔ r.toInt < 0) ∧ (f.zf = true ↔ r.toNat = 0) ∧ (f.pf = true ↔ lowByteOnes r % 2 = 0)

/-- `r = (a + b + c) mod 2^w`, with the flags of `AddFlags_w`: OF is signed overflow. -/
def isSum {w : Nat} (a b : BitVec w) (c : Bool) (r : BitVec w) : Prop :=
  r.toNat = (a.toNat + b.toNat + c.toNat) % 2 ^ w

def sumFlags {w : Nat} (a b : BitVec w) (c : Bool) (r : BitVec w) (f : Flags) : Prop :=
  resultFlags r f ∧ (f.of = true ↔ r.toInt ≠ a.toInt + b.toInt + c.toNat) ∧
    (f.af = true ↔ 16 ≤ a.toNat % 16 + b.toNat % 16 + c.toNat)

def sumCarry {w : Nat} (a b : BitVec w) (c : Bool) (f : Flags) : Prop :=
  f.cf = true ↔ 2 ^ w ≤ a.toNat + b.toNat + c.toNat

/-- `r = (a - b - c) mod 2^w`, with the flags of `SubFlags_w`. -/
def isDifference {w : Nat} (a b : BitVec w) (c : Bool) (r : BitVec w) : Prop :=
  (r.toNat : Int) = ((a.toNat : Int) - b.toNat - c.toNat) % 2 ^ w

def differenceFlags {w : Nat} (a b : BitVec w) (c : Bool) (r : BitVec w) (f : Flags) : Prop :=
  resultFlags r f ∧ (f.of = true ↔ r.toInt ≠ a.toInt - b.toInt - c.toNat) ∧
    (f.af = true ↔ a.toNat % 16 < b.toNat % 16 + c.toNat)

def differenceBorrow {w : Nat} (a b : BitVec w) (c : Bool) (f : Flags) : Prop :=
  f.cf = true ↔ a.toNat < b.toNat + c.toNat

/-- `LogicFlags_w(r)`; nothing is said of AF, which is a draw. -/
def logicalFlags {w : Nat} (r : BitVec w) (f : Flags) : Prop := resultFlags r f ∧ f.cf = false ∧ f.of = false

/-- An operand's place holds a value. -/
def Loc.holds {w : Nat} (l : Loc) (v : BitVec w) (s : State) : Prop :=
  match l with
  | .part p => readPart w p s = v
  | .mem a => s.mem.readLE a.toNat (w / 8) = v.toNat

/-- `pc <- pc_next` (R24). -/
def advances (s t : State) : Prop := t.pc = s.pc + s.len

/-- An access that ends in the address space and that `MemAdmit` does not admit (R68, R272). -/
def denied (k : Access) (a : Word) (n : Nat) (s : State) : Prop :=
  a.toNat + n ≤ addressSpace ∧ memAdmit s a.toNat n k = false

/-- The access to an `r/m` operand of `w` bits is not admitted. -/
def operandDenied (k : Access) (w : Nat) (x : RM Part) (s : State) : Prop :=
  ∃ m, x = .mem m ∧ denied k (operandAddress s m) (w / 8) s

/-- The read of a source operand is not admitted. -/
def sourceDenied {w : Nat} (x : Src w) (s : State) : Prop := ∃ m, x = .rm m ∧ operandDenied .read w m s

/-- The memory fault of R68: nothing changes, `pc` stays. -/
def memoryFaults (i : Instr) (s : State) : Prop := exec i s = .fault (.memoryAccess s.pc)

/-! ### Shapes of instructions -/

/-- `op S, D` (R160): with both operands readable as `v` and `d` and the destination writable, the instruction
completes, the destination holds a result, and `claim d v CF result flags`; an access that is not admitted is a memory
fault. -/
def updates {F : Type} (w : Nat) (operands : F → Src w × RM Part) (mk : F → Instr)
    (claim : BitVec w → BitVec w → Bool → BitVec w → Flags → Prop) : Prop :=
  (∀ (f : F) (s : State) (v d : BitVec w), readSrc (operands f).1 s = .ok v → readRM w (operands f).2 s = .ok d →
    (locate s (operands f).2).writable w s →
    ∃ t r, exec (mk f) s = .next t ∧ (locate s (operands f).2).holds r t ∧ claim d v s.flags.cf r t.flags ∧
      advances s t) ∧
  ∀ (f : F) (s : State), sourceDenied (operands f).1 s ∨ operandDenied .read w (operands f).2 s ∨
    operandDenied .write w (operands f).2 s → memoryFaults (mk f) s

/-- `updates` at the three widths. -/
def updatesAll (b : AluForm Reg8 8 → Instr) (h : AluForm Reg16 16 → Instr) (l : AluForm Reg32 32 → Instr)
    (claim : ∀ w : Nat, BitVec w → BitVec w → Bool → BitVec w → Flags → Prop) : Prop :=
  updates 8 (aluOperands Reg8.part) b (claim 8) ∧ updates 16 (aluOperands Reg16.part) h (claim 16) ∧
    updates 32 (aluOperands Reg32.part) l (claim 32)

/-- `cmp`, `test` (R165, R168): completes and writes the flags alone. -/
def comparesOnly {F : Type} (w : Nat) (operands : F → Src w × RM Part) (mk : F → Instr)
    (claim : BitVec w → BitVec w → Flags → Prop) : Prop :=
  (∀ (f : F) (s : State) (v d : BitVec w), readSrc (operands f).1 s = .ok v → readRM w (operands f).2 s = .ok d →
    ∃ t, exec (mk f) s = .next t ∧ t.gpr = s.gpr ∧ t.mem = s.mem ∧ claim d v t.flags ∧ advances s t) ∧
  ∀ (f : F) (s : State), sourceDenied (operands f).1 s ∨ operandDenied .read w (operands f).2 s →
    memoryFaults (mk f) s

/-- `op D` (R166, R167, R210, R211). -/
def modifies {F : Type} (w : Nat) (operand : F → RM Part) (mk : F → Instr)
    (claim : BitVec w → Flags → BitVec w → Flags → Prop) : Prop :=
  (∀ (f : F) (s : State) (d : BitVec w), readRM w (operand f) s = .ok d → (locate s (operand f)).writable w s →
    ∃ t r, exec (mk f) s = .next t ∧ (locate s (operand f)).holds r t ∧ claim d s.flags r t.flags ∧ advances s t) ∧
  ∀ (f : F) (s : State), operandDenied .read w (operand f) s ∨ operandDenied .write w (operand f) s →
    memoryFaults (mk f) s

/-- The count as written: `imm8`, or `%cl` (R190). -/
def writtenCount (s : State) : Count → Nat
  | .imm c => c.toNat
  | .cl => s.gpr.ecx.toNat % 256

/-- A shift (R190): with the count `c = cnt AND 31`, nothing but `pc` changes for `c = 0`. -/
def shifts {F : Type} (w : Nat) (operands : F → Count × RM Part) (mk : F → Instr)
    (claim : BitVec w → Nat → BitVec w → Flags → Prop) : Prop :=
  (∀ (f : F) (s : State) (d : BitVec w) (c : Nat), readRM w (operands f).2 s = .ok d →
    c = writtenCount s (operands f).1 % 32 →
    (c = 0 → ∃ t, exec (mk f) s = .next t ∧ t.gpr = s.gpr ∧ t.mem = s.mem ∧ t.flags = s.flags ∧ advances s t) ∧
    (c ≠ 0 → (locate s (operands f).2).writable w s →
      ∃ t r, exec (mk f) s = .next t ∧ (locate s (operands f).2).holds r t ∧ resultFlags r t.flags ∧
        claim d c r t.flags ∧ advances s t)) ∧
  ∀ (f : F) (s : State), operandDenied .read w (operands f).2 s ∨
    (writtenCount s (operands f).1 % 32 ≠ 0 ∧ operandDenied .write w (operands f).2 s) → memoryFaults (mk f) s

def shiftsAll (b : ShiftForm Reg8 → Instr) (h : ShiftForm Reg16 → Instr) (l : ShiftForm Reg32 → Instr)
    (claim : ∀ w : Nat, BitVec w → Nat → BitVec w → Flags → Prop) : Prop :=
  shifts 8 (shiftOperands Reg8.part) b (claim 8) ∧ shifts 16 (shiftOperands Reg16.part) h (claim 16) ∧
    shifts 32 (shiftOperands Reg32.part) l (claim 32)

/-- R191: CF is the last bit shifted out where `c < w`; OF is defined for `c = 1`. -/
def leftShift (w : Nat) (d : BitVec w) (c : Nat) (r : BitVec w) (f : Flags) : Prop :=
  r.toNat = d.toNat * 2 ^ c % 2 ^ w ∧ (c < w → (f.cf = true ↔ d.toNat / 2 ^ (w - c) % 2 = 1)) ∧
    (c = 1 → (f.of = true ↔ ¬ (r.toInt < 0 ↔ f.cf = true)))

/-- R194. -/
def rightShift (w : Nat) (d : BitVec w) (c : Nat) (r : BitVec w) (f : Flags) : Prop :=
  r.toNat = d.toNat / 2 ^ c ∧ (c < w → (f.cf = true ↔ d.toNat / 2 ^ (c - 1) % 2 = 1)) ∧
    (c = 1 → (f.of = true ↔ d.toInt < 0))

/-- R193: the quotient rounds toward negative infinity. -/
def signedRightShift (w : Nat) (d : BitVec w) (c : Nat) (r : BitVec w) (f : Flags) : Prop :=
  r.toInt = d.toInt / 2 ^ c ∧ (c ≤ w → (f.cf = true ↔ d.toNat / 2 ^ (c - 1) % 2 = 1)) ∧
    (w < c → (f.cf = true ↔ d.toInt < 0)) ∧ (c = 1 → f.of = false)

/-- A double shift (R195, R196): for `c > w` it completes and nothing is said of the draws it leaves. -/
def doubleShifts {F : Type} (w : Nat) (operands : F → Count × Part × RM Part) (mk : F → Instr)
    (claim : BitVec w → BitVec w → Nat → BitVec w → Flags → Prop) : Prop :=
  (∀ (f : F) (s : State) (d : BitVec w) (c : Nat), readRM w (operands f).2.2 s = .ok d →
    c = writtenCount s (operands f).1 % 32 →
    (c = 0 → ∃ t, exec (mk f) s = .next t ∧ t.gpr = s.gpr ∧ t.mem = s.mem ∧ t.flags = s.flags ∧ advances s t) ∧
    (c ≠ 0 → (locate s (operands f).2.2).writable w s →
      ∃ t r, exec (mk f) s = .next t ∧ (locate s (operands f).2.2).holds r t ∧ advances s t ∧
        (c ≤ w → resultFlags r t.flags ∧ claim d (readPart w (operands f).2.1 s) c r t.flags))) ∧
  ∀ (f : F) (s : State), operandDenied .read w (operands f).2.2 s ∨
    (writtenCount s (operands f).1 % 32 ≠ 0 ∧ operandDenied .write w (operands f).2.2 s) → memoryFaults (mk f) s

/-- R195. -/
def doubleLeft (w : Nat) (d x : BitVec w) (c : Nat) (r : BitVec w) (f : Flags) : Prop :=
  r.toNat = (d.toNat * 2 ^ c + x.toNat / 2 ^ (w - c)) % 2 ^ w ∧ (f.cf = true ↔ d.toNat / 2 ^ (w - c) % 2 = 1)

/-- R196. -/
def doubleRight (w : Nat) (d x : BitVec w) (c : Nat) (r : BitVec w) (f : Flags) : Prop :=
  r.toNat = (d.toNat / 2 ^ c + x.toNat * 2 ^ (w - c)) % 2 ^ w ∧ (f.cf = true ↔ d.toNat / 2 ^ (c - 1) % 2 = 1)

/-- The integer fits `w` bits signed. -/
def fitsSigned (w : Nat) (p : Int) : Prop := -2 ^ (w - 1) ≤ p ∧ p < 2 ^ (w - 1)

/-- `mul` (R234): the pair holds the product, CF and OF are set exactly when its high half is not 0. -/
def multiplies {ρ : Type} (w : Nat) (part : ρ → Part) (mk : RM ρ → Instr) : Prop :=
  (∀ (m : RM ρ) (s : State) (v : BitVec w), readRM w (m.map part) s = .ok v →
    ∃ t, exec (mk m) s = .next t ∧ readPair w t = (readPart w acc s).toNat * v.toNat ∧
      (t.flags.cf = true ↔ 2 ^ w ≤ (readPart w acc s).toNat * v.toNat) ∧ t.flags.of = t.flags.cf ∧ advances s t) ∧
  ∀ (m : RM ρ) (s : State), operandDenied .read w (m.map part) s → memoryFaults (mk m) s

/-- One-operand `imul` (R231): the pair holds the signed product; CF and OF are clear exactly when the low half alone
does. -/
def multipliesSigned {ρ : Type} (w : Nat) (part : ρ → Part) (mk : RM ρ → Instr) : Prop :=
  (∀ (m : RM ρ) (s : State) (v : BitVec w), readRM w (m.map part) s = .ok v →
    ∃ t, exec (mk m) s = .next t ∧
      (BitVec.ofNat (2 * w) (readPair w t)).toInt = (readPart w acc s).toInt * v.toInt ∧
      (t.flags.cf = true ↔ ¬ fitsSigned w ((readPart w acc s).toInt * v.toInt)) ∧ t.flags.of = t.flags.cf ∧
      advances s t) ∧
  ∀ (m : RM ρ) (s : State), operandDenied .read w (m.map part) s → memoryFaults (mk m) s

/-- Two- and three-operand `imul` (R232, R233): `dst` gets the low bits of the signed product of `a` and the `r/m`
operand. -/
def multipliesInto {ρ : Type} (w : Nat) (part : ρ → Part) (mk : ImulForm ρ w → Instr) : Prop :=
  ∀ (m : RM ρ) (dst : ρ) (s : State) (f : ImulForm ρ w) (a : BitVec w),
    (f = .two m dst ∧ a = readPart w (part dst) s) ∨ (f = .three a m dst) ∨
      (∃ i : Byte, f = .three8 i m dst ∧ a = i.signExtend w) →
    (∀ v : BitVec w, readRM w (m.map part) s = .ok v →
      ∃ t, exec (mk f) s = .next t ∧ readPart w (part dst) t = BitVec.ofInt w (a.toInt * v.toInt) ∧
        (t.flags.cf = true ↔ ¬ fitsSigned w (a.toInt * v.toInt)) ∧ t.flags.of = t.flags.cf ∧ advances s t) ∧
    (operandDenied .read w (m.map part) s → memoryFaults (mk f) s)

/-- `div` (R235): quotient and remainder of the pair by the divisor; `#DE` on a zero divisor or a quotient above
`2^w - 1`. -/
def divides {ρ : Type} (w : Nat) (part : ρ → Part) (mk : RM ρ → Instr) : Prop :=
  (∀ (m : RM ρ) (s : State) (v : BitVec w), readRM w (m.map part) s = .ok v →
    (v.toNat ≠ 0 → readPair w s < 2 ^ w * v.toNat →
      ∃ t, exec (mk m) s = .next t ∧
        readPair w s = (readPart w acc t).toNat * v.toNat + (readPart w (highPart w) t).toNat ∧
        (readPart w (highPart w) t).toNat < v.toNat ∧ advances s t) ∧
    (v.toNat = 0 ∨ 2 ^ w * v.toNat ≤ readPair w s → exec (mk m) s = .fault (.divideError s.pc))) ∧
  ∀ (m : RM ρ) (s : State), operandDenied .read w (m.map part) s → memoryFaults (mk m) s

/-- `bound` (R212). -/
def checksBounds {ρ : Type} (w : Nat) (part : ρ → Part) (mk : ρ → MemOp → Instr) : Prop :=
  (∀ (x : ρ) (m : MemOp) (s : State) (lower upper : BitVec w),
    load w (s.linear (segmentOf m) (effectiveAddress s m)) s = .ok lower →
    load w (s.linear (segmentOf m) (effectiveAddress s m + BitVec.ofNat 32 (w / 8))) s = .ok upper →
    (lower.toInt ≤ (readPart w (part x) s).toInt ∧ (readPart w (part x) s).toInt ≤ upper.toInt →
      ∃ t, exec (mk x m) s = .next t ∧ t.gpr = s.gpr ∧ t.mem = s.mem ∧ t.flags = s.flags ∧ advances s t) ∧
    ((readPart w (part x) s).toInt < lower.toInt ∨ upper.toInt < (readPart w (part x) s).toInt →
      exec (mk x m) s = .fault (.boundRange s.pc))) ∧
  ∀ (x : ρ) (m : MemOp) (s : State),
    denied .read (s.linear (segmentOf m) (effectiveAddress s m)) (w / 8) s ∨
      (s.canRead (s.linear (segmentOf m) (effectiveAddress s m)) (w / 8) ∧
        denied .read (s.linear (segmentOf m) (effectiveAddress s m + BitVec.ofNat 32 (w / 8))) (w / 8) s) →
    memoryFaults (mk x m) s

/-- The signed distance of a jump (R251). -/
def distance : JumpForm → Int
  | .disp8 d => d.toInt
  | .disp32 d => d.toInt

/-- Conditions 0 to 5 of R250's table. -/
def conditionsA : List ((JumpForm → Instr) × (Flags → Bool)) :=
  [(Instr.jo, fun f => f.of),
   (Instr.jno, fun f => !f.of),
   (Instr.jb, fun f => f.cf),
   (Instr.jc, fun f => f.cf),
   (Instr.jnae, fun f => f.cf),
   (Instr.jae, fun f => !f.cf),
   (Instr.jnb, fun f => !f.cf),
   (Instr.jnc, fun f => !f.cf),
   (Instr.je, fun f => f.zf),
   (Instr.jz, fun f => f.zf),
   (Instr.jne, fun f => !f.zf),
   (Instr.jnz, fun f => !f.zf)]

/-- Conditions 6 to 11. -/
def conditionsB : List ((JumpForm → Instr) × (Flags → Bool)) :=
  [(Instr.jbe, fun f => f.cf || f.zf),
   (Instr.jna, fun f => f.cf || f.zf),
   (Instr.ja, fun f => !f.cf && !f.zf),
   (Instr.jnbe, fun f => !f.cf && !f.zf),
   (Instr.js, fun f => f.sf),
   (Instr.jns, fun f => !f.sf),
   (Instr.jp, fun f => f.pf),
   (Instr.jpe, fun f => f.pf),
   (Instr.jnp, fun f => !f.pf),
   (Instr.jpo, fun f => !f.pf)]

/-- Conditions 12 to 15. -/
def conditionsC : List ((JumpForm → Instr) × (Flags → Bool)) :=
  [(Instr.jl, fun f => f.sf != f.of),
   (Instr.jnge, fun f => f.sf != f.of),
   (Instr.jge, fun f => f.sf == f.of),
   (Instr.jnl, fun f => f.sf == f.of),
   (Instr.jle, fun f => f.zf || (f.sf != f.of)),
   (Instr.jng, fun f => f.zf || (f.sf != f.of)),
   (Instr.jg, fun f => !f.zf && (f.sf == f.of)),
   (Instr.jnle, fun f => !f.zf && (f.sf == f.of))]

/-- The conditional jumps with the conditions of R250's table. -/
def conditions : List ((JumpForm → Instr) × (Flags → Bool)) :=
  conditionsA ++ conditionsB ++ conditionsC

/-- A conditional jump is taken in `t`: it does what `jmp` does. -/
def taken (mk : JumpForm → Instr) (t : State) : Prop := ∀ j, exec (mk j) t = exec (.jmp j) t

/-- A conditional jump falls through in `t`. -/
def fallsThrough (mk : JumpForm → Instr) (t : State) : Prop :=
  ∀ j, ∃ u, exec (mk j) t = .next u ∧ u.pc = t.pc + t.len

/-- What the unsigned names, and equality, mean after `cmp S, D` with source `v` and destination `d` (R250). -/
def unsignedComparisons {w : Nat} (d v : BitVec w) : List ((JumpForm → Instr) × Prop) :=
  [(Instr.ja, v.toNat < d.toNat),
   (Instr.jnbe, v.toNat < d.toNat),
   (Instr.jae, v.toNat ≤ d.toNat),
   (Instr.jnb, v.toNat ≤ d.toNat),
   (Instr.jnc, v.toNat ≤ d.toNat),
   (Instr.jb, d.toNat < v.toNat),
   (Instr.jc, d.toNat < v.toNat),
   (Instr.jnae, d.toNat < v.toNat),
   (Instr.jbe, d.toNat ≤ v.toNat),
   (Instr.jna, d.toNat ≤ v.toNat),
   (Instr.je, d = v),
   (Instr.jz, d = v),
   (Instr.jne, d ≠ v),
   (Instr.jnz, d ≠ v)]

/-- What the signed names mean after it. -/
def signedComparisons {w : Nat} (d v : BitVec w) : List ((JumpForm → Instr) × Prop) :=
  [(Instr.jg, v.toInt < d.toInt),
   (Instr.jnle, v.toInt < d.toInt),
   (Instr.jge, v.toInt ≤ d.toInt),
   (Instr.jnl, v.toInt ≤ d.toInt),
   (Instr.jl, d.toInt < v.toInt),
   (Instr.jnge, d.toInt < v.toInt),
   (Instr.jle, d.toInt ≤ v.toInt),
   (Instr.jng, d.toInt ≤ v.toInt)]

/-- After a `cmp` the conditional jumps compare its operands. -/
def comparesFor (w : Nat) {F : Type} (operands : F → Src w × RM Part) (mk : F → Instr) : Prop :=
  ∀ (f : F) (s : State) (v d : BitVec w), readSrc (operands f).1 s = .ok v → readRM w (operands f).2 s = .ok d →
    ∃ t, exec (mk f) s = .next t ∧
      ∀ c ∈ unsignedComparisons d v ++ signedComparisons d v, (c.2 → taken c.1 t) ∧ (¬ c.2 → fallsThrough c.1 t)

/-- A full-pointer load (R100): the offset to the general register, the selector to `r`, or `#SEG`, or a memory
fault. -/
def loadsPointer {ρ : Type} (w : Nat) (part : ρ → Part) (mk : MemOp → ρ → Instr) (r : SReg) : Prop :=
  ∀ (m : MemOp) (dst : ρ) (s : State), (operandAddress s m).toNat + w / 8 + 2 ≤ addressSpace →
    (∀ (off : BitVec w) (sel : Half), load w (operandAddress s m) s = .ok off →
      load 16 (operandAddress s m + BitVec.ofNat 32 (w / 8)) s = .ok sel →
      (selectorLoadable s r sel = true →
        ∃ t, exec (mk m dst) s = .next t ∧ readPart w (part dst) t = off ∧ t.seg.get r = sel ∧ advances s t) ∧
      (selectorLoadable s r sel = false → exec (mk m dst) s = .fault (.segmentLoad sel s.pc))) ∧
    (denied .read (operandAddress s m) (w / 8) s ∨ denied .read (operandAddress s m + BitVec.ofNat 32 (w / 8)) 2 s →
      memoryFaults (mk m dst) s)

/-- The state with `%esp` moved up by `n`, as a memory destination of `pop` sees it (R106). -/
def afterIncrement (n : Nat) (s : State) : State := s.setReg .esp (s.gpr.esp + BitVec.ofNat 32 n)

/-- `pop` (R106). -/
def pops {F : Type} (w : Nat) (operand : F → RM Part) (mk : F → Instr) : Prop :=
  (∀ (f : F) (s : State) (v : BitVec w), load w (s.linear .ss s.gpr.esp) s = .ok v →
    (locate (afterIncrement (w / 8) s) (operand f)).writable w s →
    ∃ t, exec (mk f) s = .next t ∧ (locate (afterIncrement (w / 8) s) (operand f)).holds v t ∧ advances s t ∧
      ∀ b, outsideParts (destParts w (operand f)) .esp b →
        t.gpr.esp.getLsbD b = (s.gpr.esp + BitVec.ofNat 32 (w / 8)).getLsbD b) ∧
  ∀ (f : F) (s : State), denied .read (s.linear .ss s.gpr.esp) (w / 8) s ∨
    (s.canRead (s.linear .ss s.gpr.esp) (w / 8) ∧
      operandDenied .write w (operand f) (afterIncrement (w / 8) s)) → memoryFaults (mk f) s

/-- `pop` of a segment register (R107). -/
def popsSegment (mk : SReg → Instr) : Prop :=
  (∀ (r : SReg) (s : State) (v : Word), load 32 (s.linear .ss s.gpr.esp) s = .ok v →
    (selectorLoadable s r (v.setWidth 16) = true →
      ∃ t, exec (mk r) s = .next t ∧ t.seg.get r = v.setWidth 16 ∧ t.gpr.esp = s.gpr.esp + 4#32 ∧ advances s t) ∧
    (selectorLoadable s r (v.setWidth 16) = false → exec (mk r) s = .fault (.segmentLoad (v.setWidth 16) s.pc))) ∧
  ∀ (r : SReg) (s : State), denied .read (s.linear .ss s.gpr.esp) 4 s → memoryFaults (mk r) s

/-- `push` (R108, R109): the value is read first, `%esp` moves down by `n`, the value is stored there. -/
def pushes {F : Type} (w : Nat) (operand : F → Src w) (mk : F → Instr) : Prop :=
  (∀ (f : F) (s : State) (v : BitVec w), readSrc (operand f) s = .ok v →
    (s.canWrite (s.linear .ss (s.gpr.esp - BitVec.ofNat 32 (w / 8))) (w / 8) →
      ∃ t, exec (mk f) s = .next t ∧ t.gpr.esp = s.gpr.esp - BitVec.ofNat 32 (w / 8) ∧
        t.mem.readLE (s.linear .ss (s.gpr.esp - BitVec.ofNat 32 (w / 8))).toNat (w / 8) = v.toNat ∧ advances s t) ∧
    (denied .write (s.linear .ss (s.gpr.esp - BitVec.ofNat 32 (w / 8))) (w / 8) s → memoryFaults (mk f) s)) ∧
  ∀ (f : F) (s : State), sourceDenied (operand f) s → memoryFaults (mk f) s

/-- `push` of a segment register (R110): the low half of the long is the selector; nothing is said of the drawn high
half. -/
def pushesSegment (mk : SReg → Instr) : Prop :=
  ∀ (r : SReg) (s : State),
    (s.canWrite (s.linear .ss (s.gpr.esp - 4#32)) 4 →
      ∃ t, exec (mk r) s = .next t ∧ t.gpr.esp = s.gpr.esp - 4#32 ∧
        t.mem.readLE (s.linear .ss (s.gpr.esp - 4#32)).toNat 2 = (s.seg.get r).toNat ∧ advances s t) ∧
    (denied .write (s.linear .ss (s.gpr.esp - 4#32)) 4 s → memoryFaults (mk r) s)

/-- The port number: `zext_16(imm8)`, or `%dx` (R120, R121). -/
def portOf (s : State) : PortForm → Nat
  | .imm8 b => b.toNat
  | .dx => s.gpr.edx.toNat % 65536

/-- The condition of R271. -/
def portOpen (s : State) (port : Half) (n : Nat) : Prop :=
  ioPermitted s port n = true ∧ port.toNat + n ≤ portSpace

/-- `in` (R120, R121). -/
def inputs (w : Nat) (mk : PortForm → Instr) : Prop :=
  ∀ (f : PortForm) (s : State) (port : Half), port.toNat = portOf s f →
    (portOpen s port (w / 8) →
      ∃ t, exec (mk f) s = .next t ∧ readPart w acc t = portAnswer w port s ∧
        t.portLog = s.portLog ++ [⟨.read, port, w / 8, (portAnswer w port s).setWidth 32⟩] ∧ advances s t) ∧
    (ioPermitted s port (w / 8) = false → exec (mk f) s = .fault (.ioPermission port s.pc))

/-- `out` (R123, R124). -/
def outputs (w : Nat) (mk : PortForm → Instr) : Prop :=
  ∀ (f : PortForm) (s : State) (port : Half), port.toNat = portOf s f →
    (portOpen s port (w / 8) →
      ∃ t, exec (mk f) s = .next t ∧ t.gpr = s.gpr ∧
        t.portLog = s.portLog ++ [⟨.write, port, w / 8, (readPart w acc s).setWidth 32⟩] ∧ advances s t) ∧
    (ioPermitted s port (w / 8) = false → exec (mk f) s = .fault (.ioPermission port s.pc))

/-- The index register after a transfer of `n` bytes (R122, R125). -/
def stepped (i : Word) (n : Nat) (df : Bool) : Word :=
  if df then i - BitVec.ofNat 32 n else i + BitVec.ofNat 32 n

/-- The port of `ins`, `outs`. -/
def dxPort (s : State) : Half := s.gpr.edx.setWidth 16

/-- One item of `ins` has been transferred (R122). -/
def insTransferred (w : Nat) (s t : State) : Prop :=
  t.mem.readLE (s.linear .es s.gpr.edi).toNat (w / 8) = (portAnswer w (dxPort s) s).toNat ∧
    t.gpr.edi = stepped s.gpr.edi (w / 8) s.flags.df ∧
    t.portLog = s.portLog ++ [⟨.read, dxPort s, w / 8, (portAnswer w (dxPort s) s).setWidth 32⟩]

/-- After an iteration of `rep` (R126): the count is one less, `pc` stays until it is 0. -/
def repeatStepped (s t : State) : Prop :=
  t.gpr.ecx = s.gpr.ecx - 1#32 ∧ t.pc = if s.gpr.ecx = 1#32 then s.pc + s.len else s.pc

/-- `rep` with a count of 0 changes nothing but `pc` and checks nothing (R126). -/
def repeatsNothing (rep : Instr) : Prop :=
  ∀ s : State, s.gpr.ecx = 0#32 →
    ∃ t, exec rep s = .next t ∧ t.gpr = s.gpr ∧ t.mem = s.mem ∧ t.portLog = s.portLog ∧ t.flags = s.flags ∧
      t.pc = s.pc + s.len

/-- `ins` and `rep ins` of one width: the transfer, `#IO` before anything, `#MEM` before the port is read. -/
def insWidth (w : Nat) (ins rep : Instr) : Prop :=
  (∀ s : State, portOpen s (dxPort s) (w / 8) → s.canWrite (s.linear .es s.gpr.edi) (w / 8) →
    (∃ t, exec ins s = .next t ∧ insTransferred w s t ∧ advances s t) ∧
    (s.gpr.ecx ≠ 0#32 → ∃ t, exec rep s = .next t ∧ insTransferred w s t ∧ repeatStepped s t)) ∧
  (∀ s : State, ioPermitted s (dxPort s) (w / 8) = false →
    exec ins s = .fault (.ioPermission (dxPort s) s.pc) ∧
    (s.gpr.ecx ≠ 0#32 → exec rep s = .fault (.ioPermission (dxPort s) s.pc))) ∧
  (∀ s : State, ioPermitted s (dxPort s) (w / 8) = true →
    denied .write (s.linear .es s.gpr.edi) (w / 8) s →
    memoryFaults ins s ∧ (s.gpr.ecx ≠ 0#32 → memoryFaults rep s)) ∧
  repeatsNothing rep

/-- One item of `outs` has been transferred from segment `r` (R125). -/
def outsTransferred (w : Nat) (r : SReg) (s t : State) : Prop :=
  t.gpr.esi = stepped s.gpr.esi (w / 8) s.flags.df ∧ t.mem = s.mem ∧
    t.portLog = s.portLog ++
      [⟨.write, dxPort s, w / 8, BitVec.ofNat 32 (s.mem.readLE (s.linear r s.gpr.esi).toNat (w / 8))⟩]

/-- `outs` reads through segment `r`: `%ds`, or an override, when `%ds` and `%es` have one base (R125, D19). -/
def outsReads (g : Option SReg) (s : State) (r : SReg) : Prop :=
  s.plat.segBase.ds = s.plat.segBase.es ∧ ((g = none ∧ r = .ds) ∨ g = some r)

/-- `outs` and `rep outs` of one width; with different bases of `%ds` and `%es` they are refused (D19). -/
def outsWidth (w : Nat) (outs rep : Option SReg → Instr) : Prop :=
  (∀ (g : Option SReg) (s : State) (r : SReg), outsReads g s r → portOpen s (dxPort s) (w / 8) →
    s.canRead (s.linear r s.gpr.esi) (w / 8) →
    (∃ t, exec (outs g) s = .next t ∧ outsTransferred w r s t ∧ advances s t) ∧
    (s.gpr.ecx ≠ 0#32 → ∃ t, exec (rep g) s = .next t ∧ outsTransferred w r s t ∧ repeatStepped s t)) ∧
  (∀ (g : Option SReg) (s : State) (r : SReg), outsReads g s r → ioPermitted s (dxPort s) (w / 8) = false →
    exec (outs g) s = .fault (.ioPermission (dxPort s) s.pc) ∧
    (s.gpr.ecx ≠ 0#32 → exec (rep g) s = .fault (.ioPermission (dxPort s) s.pc))) ∧
  (∀ (g : Option SReg) (s : State) (r : SReg), outsReads g s r → ioPermitted s (dxPort s) (w / 8) = true →
    denied .read (s.linear r s.gpr.esi) (w / 8) s →
    memoryFaults (outs g) s ∧ (s.gpr.ecx ≠ 0#32 → memoryFaults (rep g) s)) ∧
  (∀ (g : Option SReg) (s : State), s.plat.segBase.ds ≠ s.plat.segBase.es →
    exec (outs g) s = .refused .outsSegment ∧ (s.gpr.ecx ≠ 0#32 → exec (rep g) s = .refused .outsSegment)) ∧
  ∀ g, repeatsNothing (rep g)

/-- `rep outs` to the end (R126): `n` iterations send `n` items and leave `%ecx = 0`. -/
def outsBlock (w : Nat) (rep : Option SReg → Instr) : Prop :=
  ∀ (g : Option SReg) (r : SReg) (s : State) (n : Nat), s.gpr.ecx.toNat = n → n ≠ 0 → s.flags.df = false →
    outsReads g s r → portOpen s (dxPort s) (w / 8) →
    (∀ k < n, s.canRead (s.linear r (s.gpr.esi + BitVec.ofNat 32 (k * (w / 8)))) (w / 8)) →
    ∃ t, execTimes (rep g) n s = .next t ∧ t.gpr.ecx = 0#32 ∧ t.pc = s.pc + s.len ∧ t.mem = s.mem ∧
      t.gpr.esi = s.gpr.esi + BitVec.ofNat 32 (n * (w / 8)) ∧
      t.portLog = s.portLog ++ (List.range n).map fun k =>
        ⟨.write, dxPort s, w / 8,
          BitVec.ofNat 32
            (s.mem.readLE (s.linear r (s.gpr.esi + BitVec.ofNat 32 (k * (w / 8)))).toNat (w / 8))⟩

/-- The flags `popf` may not change at the current privilege are kept, the others come from the image (R142). -/
def popsFlags (w : Nat) (mk : Instr) : Prop :=
  (∀ s : State, denied .read (s.linear .ss s.gpr.esp) (w / 8) s → memoryFaults mk s) ∧
  ∀ (s : State) (v : BitVec w), load w (s.linear .ss s.gpr.esp) s = .ok v →
    v.getLsbD 8 = false → v.getLsbD 18 = false →
    ∃ t, exec mk s = .next t ∧ t.gpr.esp = s.gpr.esp + BitVec.ofNat 32 (w / 8) ∧ advances s t ∧
      t.flags.cf = v.getLsbD 0 ∧ t.flags.pf = v.getLsbD 2 ∧ t.flags.af = v.getLsbD 4 ∧ t.flags.zf = v.getLsbD 6 ∧
      t.flags.sf = v.getLsbD 7 ∧ t.flags.df = v.getLsbD 10 ∧ t.flags.of = v.getLsbD 11 ∧
      t.flags.nt = v.getLsbD 14 ∧
      (s.cpl = 0#2 → t.flags.iopl = v.extractLsb' 12 2) ∧ (s.cpl ≠ 0#2 → t.flags.iopl = s.flags.iopl) ∧
      (s.cpl.toNat ≤ s.flags.iopl.toNat → t.flags.intf = v.getLsbD 9) ∧
      (s.flags.iopl.toNat < s.cpl.toNat → t.flags.intf = s.flags.intf) ∧
      t.flags.tf = s.flags.tf ∧ t.flags.rf = s.flags.rf ∧ t.flags.vm = s.flags.vm ∧ t.flags.ac = s.flags.ac

/-- `pushf` (R143): the named flags stand at their bits; nothing is said of the drawn reserved bits. -/
def pushesFlags (w : Nat) (mk : Instr) : Prop :=
  (∀ s : State, denied .write (s.linear .ss (s.gpr.esp - BitVec.ofNat 32 (w / 8))) (w / 8) s → memoryFaults mk s) ∧
  ∀ s : State, s.canWrite (s.linear .ss (s.gpr.esp - BitVec.ofNat 32 (w / 8))) (w / 8) →
    ∃ (t : State) (img : BitVec w), exec mk s = .next t ∧ t.gpr.esp = s.gpr.esp - BitVec.ofNat 32 (w / 8) ∧
      advances s t ∧ t.flags = s.flags ∧
      t.mem.readLE (s.linear .ss (s.gpr.esp - BitVec.ofNat 32 (w / 8))).toNat (w / 8) = img.toNat ∧
      img.getLsbD 0 = s.flags.cf ∧ img.getLsbD 2 = s.flags.pf ∧ img.getLsbD 4 = s.flags.af ∧
      img.getLsbD 6 = s.flags.zf ∧ img.getLsbD 7 = s.flags.sf ∧ img.getLsbD 8 = s.flags.tf ∧
      img.getLsbD 9 = s.flags.intf ∧ img.getLsbD 10 = s.flags.df ∧ img.getLsbD 11 = s.flags.of ∧
      img.extractLsb' 12 2 = s.flags.iopl ∧ img.getLsbD 14 = s.flags.nt ∧
      img.getLsbD 16 = false ∧ img.getLsbD 17 = false ∧ (18 < w → img.getLsbD 18 = s.flags.ac)

/-- Some access of the instruction is not admitted. -/
def accessDenied (i : Instr) (s : State) : Prop :=
  (∃ a n, (a, n) ∈ loadedBytes i s ∧ denied .read a n s) ∨
    ∃ a n, storedBytes i s = some (a, n) ∧ denied .write a n s

/-- The instruction named by a fault is one that raises it (the "raised by" column of R263). -/
def raises (i : Instr) (s : State) : Fault → Prop
  | .boundRange pc => pc = s.pc ∧ ((∃ x m, i = .boundw x m) ∨ ∃ x m, i = .boundl x m)
  | .divideError pc =>
    pc = s.pc ∧ ((∃ m, i = .divb m) ∨ (∃ m, i = .divw m) ∨ (∃ m, i = .divl m) ∨ ∃ m, i = .div m)
  | .generalProtection pc => pc = s.pc ∧ (i = .cli ∨ i = .sti) ∧ s.flags.iopl.toNat < s.cpl.toNat
  | .ioPermission _ pc => pc = s.pc ∧ isPortAccess i = true ∧ s.flags.iopl.toNat < s.cpl.toNat
  | .memoryAccess pc => pc = s.pc ∧ accessDenied i s
  | .segmentLoad sel pc => pc = s.pc ∧ ∃ r ∈ writtenSegments i, selectorLoadable s r sel = false

/-- The situations in which an instruction itself is refused. -/
def refusesFor (i : Instr) (s : State) : Refusal → Prop
  | .notModelled _ => False
  | .undecodable _ => False
  | .outsideText => False
  | .pcPastTop => False
  | .accessPastTop => True
  | .portPastTop => isPortAccess i = true
  | .storeIntoText => True
  | .popfSetsTF => i = .popfw ∨ i = .popfl
  | .popfSetsAC => i = .popfl
  | .outsSegment => isPortAccess i = true ∧ s.plat.segBase.ds ≠ s.plat.segBase.es

/-- The flags without a rule of privilege, CF, PF, AF, ZF, SF, OF, DF and NT, apart: what is left is guarded (R262). -/
def guardedFlagsKept (s t : State) : Prop :=
  (s.cpl ≠ 0#2 → t.flags.iopl = s.flags.iopl) ∧
    (s.flags.iopl.toNat < s.cpl.toNat → t.flags.intf = s.flags.intf)

/-- The program text at the next fetch begins with `code`. -/
def textHolds (s : State) (code : List Byte) : Prop :=
  (s.linear .cs s.pc).toNat + code.length ≤ addressSpace ∧
    ∀ k (h : k < code.length), s.plat.text.holds ((s.linear .cs s.pc).toNat + k) = true ∧
      s.mem.read ((s.linear .cs s.pc).toNat + k) = code[k]

/-! ### The representations of one textual instruction (`30_encoding.md` R73, R81) -/

/-- The eight operations of the opcode block `00` to `3D` (R82), at each width. -/
def byteAlu : List (AluForm Reg8 8 → Instr) := [.addb, .orb, .adcb, .sbbb, .andb, .subb, .xorb, .cmpb]

def wordAlu : List (AluForm Reg16 16 → Instr) := [.addw, .orw, .adcw, .sbbw, .andw, .subw, .xorw, .cmpw]

def longAlu : List (AluForm Reg32 32 → Instr) := [.addl, .orl, .adcl, .sbbl, .andl, .subl, .xorl, .cmpl]

def byteShifts : List (ShiftForm Reg8 → Instr) := [.salb, .shlb, .sarb, .shrb]

def wordShifts : List (ShiftForm Reg16 → Instr) := [.salw, .shlw, .sarw, .shrw]

def longShifts : List (ShiftForm Reg32 → Instr) := [.sall, .shll, .sarl, .shrl]

/-- Two representations mean the same. -/
def sameMeaning (i j : Instr) : Prop := ∀ s : State, exec i s = exec j s

/-- The accumulator form is the `r/m` form of accumulator `a`, and with two registers the two directions of the opcode
agree. -/
def aluRepresentations {ρ : Type} {w : Nat} (a : ρ) (mk : AluForm ρ w → Instr) : Prop :=
  (∀ v, sameMeaning (mk (.immAcc v)) (mk (.immRm v (.reg a)))) ∧
    ∀ x y, sameMeaning (mk (.regRm x (.reg y))) (mk (.rmReg (.reg x) y))

/-- An `imm8` is sign-extended. -/
def imm8Representation {ρ : Type} {w : Nat} (mk : AluForm ρ w → Instr) : Prop :=
  ∀ (b : Byte) (m : RM ρ), sameMeaning (mk (.imm8Rm b m)) (mk (.immRm (b.signExtend w) m))

/-- The count 1 form is the immediate count 1. -/
def shiftRepresentation {ρ : Type} (mk : ShiftForm ρ → Instr) : Prop :=
  ∀ m, sameMeaning (mk (.one m)) (mk (.imm 1#8 m))

def imulRepresentation {ρ : Type} {w : Nat} (mk : ImulForm ρ w → Instr) : Prop :=
  ∀ (b : Byte) (m : RM ρ) (r : ρ), sameMeaning (mk (.three8 b m r)) (mk (.three (b.signExtend w) m r))

end Sys2Proof.Machine

section

open Sys2Proof Sys2Proof.Machine

/-! ### Encoding -/

/-- Decoding the words of a well-formed instruction gives it back, whatever bytes follow: every operand at every value
the encoding admits; a synonym is given back as the first spelling that shares its words. -/
def Obligations.DecodeOfEncodeIsTheInstruction : Prop :=
  ∀ (i : Instr) (rest : List Byte), WellFormed i →
    decode (encode i ++ rest) = .ok (i.canon, (encode i).length)

/-- Whatever the decoder answers is a well-formed instruction in its first spelling. Which spelling of shared words it
answers is the model's choice (log 21, DEDUCED). -/
def Obligations.DecodedInstructionIsWellFormed : Prop :=
  ∀ (bs : List Byte) (i : Instr) (n : Nat), decode bs = .ok (i, n) → WellFormed i ∧ i.canon = i ∧ n ≤ bs.length

/-- Words written out in the spec's rules and encoding vectors decode to the instructions they stand for. -/
def Obligations.SpecWordsDecode : Prop :=
  decode [0x04#8, 0x82#8] = .ok (.addb (.immAcc 0x82#8), 2) ∧
    decode [0x66#8, 0x03#8, 0x57#8, 0x04#8] =
      .ok (.addw (.rmReg (.mem { seg := none, base := some .edi, index := none, disp := 4#32 }) .dx), 4) ∧
    decode [0xC5#8, 0x15#8, 0x33#8, 0x33#8, 0x33#8, 0x33#8] =
      .ok (.ldsl { seg := none, base := none, index := none, disp := 0x33333333#32 } .edx, 6) ∧
    decode [0x66#8, 0x6A#8, 0x82#8] = .ok (.pushw (.imm8 0x82#8), 3) ∧
    decode [0xF3#8, 0x6D#8] = .ok (.rep_insl, 2) ∧ decode [0x9F#8] = .ok (.lahf, 1) ∧
    decode [0x66#8, 0xD3#8, 0xFA#8] = .ok (.sarw (.cl (.reg .dx)), 3) ∧
    decode [0xF6#8, 0xDC#8] = .ok (.negb (.reg .ah), 2) ∧
    decode [0x6B#8, 0xC3#8, 0x0A#8] = .ok (.imull (.three8 10#8 (.reg .ebx) .eax), 3) ∧
    decode [0x0F#8, 0x85#8, 0x2C#8, 0x01#8, 0x00#8, 0x00#8] = .ok (.jne (.disp32 300#32), 6)

/-- Bytes the spec refuses are rejected by name: `67`, `lock`, `repne`, a repeated prefix, the reserved extensions,
`mod = 11` where memory is needed, opcodes outside the map. -/
def Obligations.ReservedBytesRejected : Prop :=
  decode [0x67#8, 0x03#8, 0x07#8] = .error .addressSize ∧ decode [0xF0#8, 0x01#8, 0x00#8] = .error .lockPrefix ∧
    decode [0xF2#8, 0x6C#8] = .error .repnePrefix ∧ decode [0x66#8, 0x66#8, 0x40#8] = .error .repeatedPrefix ∧
    decode [0xC1#8, 0xF0#8, 0x01#8] = .error .reservedExtension ∧ decode [0xF7#8, 0xC8#8] = .error .reservedExtension ∧
    decode [0x62#8, 0xC0#8] = .error .registerOperand ∧ decode [0xF3#8, 0x40#8] = .error .repNotAllowed ∧
    decode [0x0F#8, 0x0B#8] = .error .unknownOpcode ∧ decode [0x90#8] = .error .unknownOpcode ∧
    decode [0xC3#8] = .error .unknownOpcode ∧ decode [0xCD#8, 0x80#8] = .error .unknownOpcode ∧
    decode [0xF4#8] = .error .unknownOpcode

/-! ### The step -/

/-- A step runs the instruction that the program text at `pc` decodes to, with `len` the number of bytes decoded. -/
def Obligations.StepRunsDecodedInstruction : Prop :=
  ∀ (s : State) (i : Instr) (n : Nat), ended s = false → decode (fetchBytes s) = .ok (i, n) →
    s.pc.toNat + n ≤ addressSpace → step s = exec i (s.setLen (BitVec.ofNat 32 n))

/-- When the program text at `pc` holds the words of a well-formed instruction, a step runs it. -/
def Obligations.StepRunsEncodedInstruction : Prop :=
  ∀ (s : State) (i : Instr), ended s = false → WellFormed i → textHolds s (encode i) →
    s.pc.toNat + (encode i).length ≤ addressSpace →
    step s = exec i.canon (s.setLen (BitVec.ofNat 32 (encode i).length))

/-- Where a step runs no instruction: it is refused when the bytes at `pc` decode to no row, leave the program text, or
run past the top; at `END` the run has ended and no step changes the state any more (log 13: the model's own form of
"no further step"). -/
def Obligations.StepWhereNothingRuns : Prop :=
  (∀ s : State, s.plat.endPc = some s.pc → step s = .next s) ∧
  ∀ s : State, ended s = false →
    (∀ e, decode (fetchBytes s) = .error e →
      step s = .refused (if e = .truncated then .outsideText else .undecodable e)) ∧
    (∀ i n, decode (fetchBytes s) = .ok (i, n) → addressSpace < s.pc.toNat + n → step s = .refused .pcPastTop)

/-! ### Rules of the whole machine -/

/-- Every step keeps the launch premises of R275: TF = AC = VM = RF = 0, no breakpoint armed, memory in canonical form;
and CR0.PE = 1. -/
def Obligations.LaunchPremisesKept : Prop :=
  ∀ s t : State, step s = .next t → (s.Quiet → t.Quiet) ∧ (s.Launched → t.Launched)

/-- The launch states the model names meet the launch premises; the reset state meets all but CR0.PE = 1, for it is in
real-address mode. The reset values, and where `%db7` has its enable bits, are the model's (logs 1, 3, 18). -/
def Obligations.LaunchMeetsItsPremises : Prop :=
  (∀ (start : Word) (code : List Byte), (launch start code).Launched) ∧
    State.reset.Quiet ∧ State.reset.protectedMode = false

/-- The values R290 gives for orientation: the flags, `%cs` and its base, `pc`, the other selectors, CR0. -/
def Obligations.ResetOrientationValues : Prop :=
  State.reset.pc = 0xFFF0#32 ∧ State.reset.seg.cs = 0xF000#16 ∧ State.reset.plat.segBase.cs = 0xFFFF0000#32 ∧
    State.reset.linear .cs State.reset.pc = 0xFFFFFFF0#32 ∧
    (∀ r, r ≠ SReg.cs → State.reset.seg.get r = 0#16 ∧ State.reset.plat.segBase.get r = 0#32) ∧
    State.reset.flags.cf = false ∧ State.reset.flags.pf = false ∧ State.reset.flags.af = false ∧
    State.reset.flags.zf = false ∧ State.reset.flags.sf = false ∧ State.reset.flags.tf = false ∧
    State.reset.flags.intf = false ∧ State.reset.flags.df = false ∧ State.reset.flags.of = false ∧
    State.reset.flags.iopl = 0#2 ∧ State.reset.flags.nt = false ∧ State.reset.flags.rf = false ∧
    State.reset.flags.vm = false ∧ State.reset.flags.ac = false ∧
    State.reset.sys.cr0.getLsbD 0 = false ∧ State.reset.sys.cr0.getLsbD 31 = false

/-- No step changes the privilege level, a system or floating-point register, `%cs`, or a launch parameter. -/
def Obligations.SystemStateNeverChanges : Prop :=
  ∀ s t : State, step s = .next t → keepsSystem s t ∧ t.seg.cs = s.seg.cs

/-- No step changes a byte of the program text. -/
def Obligations.ProgramTextNeverChanges : Prop :=
  ∀ s t : State, step s = .next t → ∀ b, s.plat.text.holds b = true → t.mem.read b = s.mem.read b

/-- The port history only grows: an `in`, `out`, `ins`, `outs` appends at most one event, nothing else touches it. That
an execution of `rep` is one iteration, so one event, is the model's choice (log 15; D22: no claim about the hardware
may depend on it), and the launch answers as a list are the model's form of the oracle (log 7). -/
def Obligations.PortHistoryOnlyGrows : Prop :=
  ∀ (i : Instr) (s t : State), exec i s = .next t →
    (t.portLog = s.portLog ∨ ∃ e, t.portLog = s.portLog ++ [e]) ∧ (isPortAccess i = false → keepsPorts s t)

/-- An instruction faults only with an exception its rule names, at its own `pc`; a memory fault only where one of its
own accesses is not admitted. -/
def Obligations.FaultsComeFromTheirInstructions : Prop :=
  ∀ (i : Instr) (s : State) (f : Fault), exec i s = .fault f → raises i s f

/-- No instruction is refused as such: the refusals left are those of an access past the top of a space, a store into
the program text, and the two the spec decides for `popf` and `outs`. -/
def Obligations.RefusalsComeFromSituations : Prop :=
  ∀ (i : Instr) (s : State) (r : Refusal), exec i s = .refused r → refusesFor i s r

/-- An instruction changes the flags of its class at most. -/
def Obligations.FlagsChangeByClass : Prop :=
  ∀ (i : Instr) (s t : State), exec i s = .next t → (flagClass i).allows t.flags s.flags

/-- IOPL changes at CPL 0 only, IF where `CPL <= IOPL` only, whatever instruction runs. -/
def Obligations.PrivilegedFlagsAreGuarded : Prop := ∀ s t : State, step s = .next t → guardedFlagsKept s t

/-- Every bit of every general register outside the parts an instruction writes is unchanged. -/
def Obligations.RegisterBitsFrame : Prop :=
  ∀ (i : Instr) (s t : State), exec i s = .next t →
    ∀ r b, outsideParts (writtenParts i) r b → (t.gpr.get r).getLsbD b = (s.gpr.get r).getLsbD b

/-- Every byte of memory outside the bytes an instruction stores to is unchanged; an instruction or form that stores
nothing changes no byte. -/
def Obligations.MemoryFrame : Prop :=
  ∀ (i : Instr) (s t : State), exec i s = .next t →
    (storedBytes i s = none → keepsMemory s t) ∧
    ∀ a n, storedBytes i s = some (a, n) → keepsBytesOutside a n s t

/-- A segment register changes only where an instruction loads it. -/
def Obligations.SegmentRegistersFrame : Prop :=
  ∀ (i : Instr) (s t : State), exec i s = .next t → ∀ r, r ∉ writtenSegments i → t.seg.get r = s.seg.get r

/-- An instruction that is no jump and no unfinished `rep` ends with `pc <- (pc + len) mod 2^32`. -/
def Obligations.PcAdvancesByLength : Prop :=
  ∀ (i : Instr) (s t : State), exec i s = .next t → isJump i = false →
    (isRepeated i = false ∨ s.gpr.ecx = 0#32 ∨ s.gpr.ecx = 1#32) →
    t.pc.toNat = (s.pc.toNat + s.len.toNat) % 2 ^ 32

/-- Interrupts are held off exactly after `sti` and after a load of `%ss`, until the next instruction completes. -/
def Obligations.InterruptShadowRule : Prop :=
  ∀ (i : Instr) (s t : State), exec i s = .next t →
    (isRepeated i = false ∨ s.gpr.ecx = 0#32 ∨ s.gpr.ecx = 1#32) → t.shadow = castsShadow i

/-- Spellings that share their words mean the same (`sal`/`shl`, the condition names, `mul`/`mull`, the two orders of
`test`, `push`/`pushl` of a segment register). -/
def Obligations.SynonymsMeanTheSame : Prop := ∀ (i : Instr) (s : State), exec i s = exec i.canon s

/-- The representations of one textual instruction have one meaning: an `imm8` is sign-extended, the accumulator and
short register forms are the `r/m` forms, the two directions of a register to register form agree, a count of 1 is an
immediate count. -/
def Obligations.RepresentationsMeanTheSame : Prop :=
  ((∀ mk ∈ byteAlu, aluRepresentations .al mk) ∧
    (∀ mk ∈ wordAlu, aluRepresentations .ax mk ∧ imm8Representation mk) ∧
    ∀ mk ∈ longAlu, aluRepresentations .eax mk ∧ imm8Representation mk) ∧
  ((∀ v, sameMeaning (.testb (.immAcc v)) (.testb (.immRm v (.reg .al)))) ∧
    (∀ v, sameMeaning (.testw (.immAcc v)) (.testw (.immRm v (.reg .ax)))) ∧
    ∀ v, sameMeaning (.testl (.immAcc v)) (.testl (.immRm v (.reg .eax)))) ∧
  ((∀ r, sameMeaning (.incw (.reg r)) (.incw (.rm (.reg r))) ∧ sameMeaning (.decw (.reg r)) (.decw (.rm (.reg r))) ∧
      sameMeaning (.popw (.reg r)) (.popw (.rm (.reg r))) ∧ sameMeaning (.pushw (.reg r)) (.pushw (.rm (.reg r)))) ∧
    ∀ r, sameMeaning (.incl (.reg r)) (.incl (.rm (.reg r))) ∧ sameMeaning (.decl (.reg r)) (.decl (.rm (.reg r))) ∧
      sameMeaning (.popl (.reg r)) (.popl (.rm (.reg r))) ∧ sameMeaning (.pushl (.reg r)) (.pushl (.rm (.reg r)))) ∧
  (∀ b : Byte, sameMeaning (.pushw (.imm8 b)) (.pushw (.imm (b.signExtend 16))) ∧
    sameMeaning (.pushl (.imm8 b)) (.pushl (.imm (b.signExtend 32)))) ∧
  ((∀ mk ∈ byteShifts, shiftRepresentation mk) ∧ (∀ mk ∈ wordShifts, shiftRepresentation mk) ∧
    ∀ mk ∈ longShifts, shiftRepresentation mk) ∧
  imulRepresentation .imulw ∧ imulRepresentation .imull ∧ imulRepresentation .imul

/-! ### Arithmetic and logic -/

/-- `add` and `adc`: the sum, with the carry in for `adc`, and all six flags. -/
def Obligations.AddAndAdcResult : Prop :=
  updatesAll .addb .addw .addl (fun _ d v _ r f => isSum d v false r ∧ sumFlags d v false r f ∧ sumCarry d v false f) ∧
    updatesAll .adcb .adcw .adcl (fun _ d v c r f => isSum d v c r ∧ sumFlags d v c r f ∧ sumCarry d v c f)

/-- `sub` and `sbb`: the difference, with the borrow in for `sbb`, and all six flags. -/
def Obligations.SubAndSbbResult : Prop :=
  updatesAll .subb .subw .subl
      (fun _ d v _ r f => isDifference d v false r ∧ differenceFlags d v false r f ∧ differenceBorrow d v false f) ∧
    updatesAll .sbbb .sbbw .sbbl
      (fun _ d v c r f => isDifference d v c r ∧ differenceFlags d v c r f ∧ differenceBorrow d v c f)

/-- `and`, `or`, `xor`: Tables 2-2 to 2-4 bit by bit, and the logical flags. -/
def Obligations.LogicResult : Prop :=
  updatesAll .andb .andw .andl
      (fun _ d v _ r f => (∀ b, r.getLsbD b = (d.getLsbD b && v.getLsbD b)) ∧ logicalFlags r f) ∧
    updatesAll .orb .orw .orl
      (fun _ d v _ r f => (∀ b, r.getLsbD b = (d.getLsbD b || v.getLsbD b)) ∧ logicalFlags r f) ∧
    updatesAll .xorb .xorw .xorl
      (fun _ d v _ r f => (∀ b, r.getLsbD b = (d.getLsbD b != v.getLsbD b)) ∧ logicalFlags r f)

/-- `cmp` sets the flags of `D - S`, `test` those of `S AND D`; both write nothing else. -/
def Obligations.CompareAndTestResult : Prop :=
  (comparesOnly 8 (aluOperands Reg8.part) .cmpb
      (fun d v f => differenceFlags d v false (d - v) f ∧ differenceBorrow d v false f) ∧
    comparesOnly 16 (aluOperands Reg16.part) .cmpw
      (fun d v f => differenceFlags d v false (d - v) f ∧ differenceBorrow d v false f) ∧
    comparesOnly 32 (aluOperands Reg32.part) .cmpl
      (fun d v f => differenceFlags d v false (d - v) f ∧ differenceBorrow d v false f)) ∧
  (comparesOnly 8 (testOperands Reg8.part) .testb (fun d v f => logicalFlags (d &&& v) f) ∧
    comparesOnly 16 (testOperands Reg16.part) .testw (fun d v f => logicalFlags (d &&& v) f) ∧
    comparesOnly 32 (testOperands Reg32.part) .testl (fun d v f => logicalFlags (d &&& v) f))

/-- `inc` and `dec`: plus or minus 1, five flags, CF unchanged. -/
def Obligations.IncAndDecResult : Prop :=
  (modifies 8 (fun m => m.map Reg8.part) .incb
      (fun d o r f => isSum d 1#8 false r ∧ sumFlags d 1#8 false r f ∧ f.cf = o.cf) ∧
    modifies 16 (incOperand Reg16.part) .incw
      (fun d o r f => isSum d 1#16 false r ∧ sumFlags d 1#16 false r f ∧ f.cf = o.cf) ∧
    modifies 32 (incOperand Reg32.part) .incl
      (fun d o r f => isSum d 1#32 false r ∧ sumFlags d 1#32 false r f ∧ f.cf = o.cf)) ∧
  (modifies 8 (fun m => m.map Reg8.part) .decb
      (fun d o r f => isDifference d 1#8 false r ∧ differenceFlags d 1#8 false r f ∧ f.cf = o.cf) ∧
    modifies 16 (incOperand Reg16.part) .decw
      (fun d o r f => isDifference d 1#16 false r ∧ differenceFlags d 1#16 false r f ∧ f.cf = o.cf) ∧
    modifies 32 (incOperand Reg32.part) .decl
      (fun d o r f => isDifference d 1#32 false r ∧ differenceFlags d 1#32 false r f ∧ f.cf = o.cf))

/-- `not` inverts every bit and changes no flag; `neg` subtracts from 0, CF set exactly when the operand is not 0, OF
exactly when it is the most negative value. -/
def Obligations.NotAndNegResult : Prop :=
  (modifies 8 (fun m => m.map Reg8.part) .notb (fun d o r f => r.toNat = 2 ^ 8 - 1 - d.toNat ∧ f = o) ∧
    modifies 16 (fun m => m.map Reg16.part) .notw (fun d o r f => r.toNat = 2 ^ 16 - 1 - d.toNat ∧ f = o) ∧
    modifies 32 (fun m => m.map Reg32.part) .notl (fun d o r f => r.toNat = 2 ^ 32 - 1 - d.toNat ∧ f = o)) ∧
  (modifies 8 (fun m => m.map Reg8.part) .negb
      (fun d _ r f => isDifference 0#8 d false r ∧ resultFlags r f ∧ (f.cf = true ↔ d.toNat ≠ 0) ∧
        (f.of = true ↔ d.toNat = 2 ^ 7) ∧ (f.af = true ↔ d.toNat % 16 ≠ 0)) ∧
    modifies 16 (fun m => m.map Reg16.part) .negw
      (fun d _ r f => isDifference 0#16 d false r ∧ resultFlags r f ∧ (f.cf = true ↔ d.toNat ≠ 0) ∧
        (f.of = true ↔ d.toNat = 2 ^ 15) ∧ (f.af = true ↔ d.toNat % 16 ≠ 0)) ∧
    modifies 32 (fun m => m.map Reg32.part) .negl
      (fun d _ r f => isDifference 0#32 d false r ∧ resultFlags r f ∧ (f.cf = true ↔ d.toNat ≠ 0) ∧
        (f.of = true ↔ d.toNat = 2 ^ 31) ∧ (f.af = true ↔ d.toNat % 16 ≠ 0)))

/-! ### Shifts -/

/-- `sal` and its synonym `shl`. -/
def Obligations.LeftShiftResult : Prop :=
  shiftsAll .salb .salw .sall leftShift ∧ shiftsAll .shlb .shlw .shll leftShift

/-- `shr` divides by `2^c`; `sar` divides rounding toward negative infinity. -/
def Obligations.RightShiftResult : Prop :=
  shiftsAll .shrb .shrw .shrl rightShift ∧ shiftsAll .sarb .sarw .sarl signedRightShift

/-- `shld` and `shrd`. -/
def Obligations.DoubleShiftResult : Prop :=
  (doubleShifts 16 (dshiftOperands Reg16.part) .shldw (doubleLeft 16) ∧
    doubleShifts 32 (dshiftOperands Reg32.part) .shldl (doubleLeft 32)) ∧
  (doubleShifts 16 (dshiftOperands Reg16.part) .shrdw (doubleRight 16) ∧
    doubleShifts 32 (dshiftOperands Reg32.part) .shrdl (doubleRight 32))

/-- With one register as both operands, `shld` rotates it left and `shrd` rotates it right. -/
def Obligations.DoubleShiftOfOneRegisterRotates : Prop :=
  ∀ (s : State) (c : Byte),
    (∀ x : Reg32, ∃ t, exec (.shldl (.imm c x (.reg x))) s = .next t ∧
      t.gpr.get x = (s.gpr.get x).rotateLeft (c.toNat % 32)) ∧
    (∀ x : Reg32, ∃ t, exec (.shrdl (.imm c x (.reg x))) s = .next t ∧
      t.gpr.get x = (s.gpr.get x).rotateRight (c.toNat % 32)) ∧
    (c.toNat % 32 ≤ 16 → ∀ x : Reg16,
      (∃ t, exec (.shldw (.imm c x (.reg x))) s = .next t ∧
        readPart 16 (Reg16.part x) t = (readPart 16 (Reg16.part x) s).rotateLeft (c.toNat % 32)) ∧
      ∃ t, exec (.shrdw (.imm c x (.reg x))) s = .next t ∧
        readPart 16 (Reg16.part x) t = (readPart 16 (Reg16.part x) s).rotateRight (c.toNat % 32))

/-! ### Multiply, divide, bounds -/

/-- `mul`. -/
def Obligations.MultiplyResult : Prop :=
  multiplies 8 Reg8.part .mulb ∧ multiplies 16 Reg16.part .mulw ∧ multiplies 32 Reg32.part .mull ∧
    multiplies 32 Reg32.part .mul

/-- `imul`, all its forms. -/
def Obligations.SignedMultiplyResult : Prop :=
  multipliesSigned 8 Reg8.part .imulb ∧ multipliesSigned 16 Reg16.part (fun m => .imulw (.one m)) ∧
    multipliesSigned 32 Reg32.part (fun m => .imull (.one m)) ∧
    multipliesSigned 32 Reg32.part (fun m => .imul (.one m)) ∧
    multipliesInto 16 Reg16.part .imulw ∧ multipliesInto 32 Reg32.part .imull ∧ multipliesInto 32 Reg32.part .imul

/-- `div`, and when it raises `#DE`. -/
def Obligations.DivideResult : Prop :=
  divides 8 Reg8.part .divb ∧ divides 16 Reg16.part .divw ∧ divides 32 Reg32.part .divl ∧
    divides 32 Reg32.part .div

/-- `bound` passes an index within the inclusive signed bounds and raises Interrupt 5 on any other. -/
def Obligations.BoundResult : Prop := checksBounds 16 Reg16.part .boundw ∧ checksBounds 32 Reg32.part .boundl

/-! ### Jumps -/

/-- `jmp` and the thirty conditional jumps: the target is `pc_next` plus the signed displacement, taken exactly when
the condition of R250 holds; nothing else changes. -/
def Obligations.JumpResult : Prop :=
  ∀ (f : JumpForm) (s : State),
    (∃ t, exec (.jmp f) s = .next t ∧
      t.pc = BitVec.ofInt 32 (s.pc.toNat + s.len.toNat + distance f) ∧ t.flags = s.flags ∧ t.gpr = s.gpr ∧
      t.mem = s.mem) ∧
    ∀ c ∈ conditions, ∃ t, exec (c.1 f) s = .next t ∧ t.flags = s.flags ∧ t.gpr = s.gpr ∧ t.mem = s.mem ∧
      t.pc = BitVec.ofInt 32 (s.pc.toNat + s.len.toNat + if c.2 s.flags then distance f else 0)

/-- After `cmp S, D` the unsigned names compare `D` with `S` as unsigned numbers, the signed names as signed numbers,
and `e` holds when they are equal. -/
def Obligations.CompareThenJump : Prop :=
  comparesFor 8 (aluOperands Reg8.part) .cmpb ∧ comparesFor 16 (aluOperands Reg16.part) .cmpw ∧
    comparesFor 32 (aluOperands Reg32.part) .cmpl

/-! ### Segment registers and the stack -/

/-- `lds`, `les`, `lfs`, `lgs`, `lss`. -/
def Obligations.LoadPointerResult : Prop :=
  (loadsPointer 16 Reg16.part .ldsw .ds ∧ loadsPointer 16 Reg16.part .lesw .es ∧
    loadsPointer 16 Reg16.part .lfsw .fs ∧ loadsPointer 16 Reg16.part .lgsw .gs ∧
    loadsPointer 16 Reg16.part .lssw .ss) ∧
  (loadsPointer 32 Reg32.part .ldsl .ds ∧ loadsPointer 32 Reg32.part .lesl .es ∧
    loadsPointer 32 Reg32.part .lfsl .fs ∧ loadsPointer 32 Reg32.part .lgsl .gs ∧
    loadsPointer 32 Reg32.part .lssl .ss)

/-- `pop`: into a register or memory operand located with the incremented `%esp`, and into a segment register; a null
selector is never loaded into `%ss`. -/
def Obligations.PopResult : Prop :=
  pops 16 popOperand .popw ∧ pops 32 (fun m => m.map Reg32.part) (fun m => .popl (.rm m)) ∧
    pops 32 (fun r => .reg (Reg32.part r)) (fun r => .popl (.reg r)) ∧
    popsSegment (fun r => .popl (.sreg r)) ∧ popsSegment .pop ∧
    ∀ (s : State) (v : Word), load 32 (s.linear .ss s.gpr.esp) s = .ok v → v.extractLsb' 2 14 = 0#14 →
      exec (.popl (.sreg .ss)) s = .fault (.segmentLoad (v.setWidth 16) s.pc)

/-- `push`: of a register, memory or immediate operand, and of a segment register. -/
def Obligations.PushResult : Prop :=
  pushes 16 pushOperand .pushw ∧
    pushes 32 (fun m => .rm (m.map Reg32.part)) (fun m => .pushl (.rm m)) ∧
    pushes 32 (fun r => .rm (.reg (Reg32.part r))) (fun r => .pushl (.reg r)) ∧
    pushes 32 (fun v => .imm v) (fun v => .pushl (.imm v)) ∧
    pushes 32 (fun b => .imm (b.signExtend 32)) (fun b => .pushl (.imm8 b)) ∧
    pushesSegment (fun r => .pushl (.sreg r)) ∧ pushesSegment .push

/-- A `push` of a register and a `pop` of the same width into another give it the pushed value and `%esp` back. -/
def Obligations.PopUndoesPush : Prop :=
  ∀ (s : State) (x y : Reg32), y ≠ .esp → s.canWrite (s.linear .ss (s.gpr.esp - 4#32)) 4 →
    s.canRead (s.linear .ss (s.gpr.esp - 4#32)) 4 →
    ∃ t u, exec (.pushl (.reg x)) s = .next t ∧ exec (.popl (.reg y)) t = .next u ∧
      u.gpr.get y = s.gpr.get x ∧ u.gpr.esp = s.gpr.esp ∧ ∀ r, r ≠ y → u.gpr.get r = s.gpr.get r

/-! ### Ports -/

/-- `in` puts the answer of the port in the accumulator, `out` sends the accumulator; each is one event of the port
history, or `#IO`. -/
def Obligations.InAndOutResult : Prop :=
  (inputs 8 .inb ∧ inputs 16 .inw ∧ inputs 32 .inl) ∧ outputs 8 .outb ∧ outputs 16 .outw ∧ outputs 32 .outl

/-- `ins` and `rep ins`. One iteration of `rep` a step is the model's choice (D22; log 15). -/
def Obligations.InsResult : Prop :=
  insWidth 8 .insb .rep_insb ∧ insWidth 16 .insw .rep_insw ∧ insWidth 32 .insl .rep_insl

/-- `outs` and `rep outs`. The base test is the spec's decision D19; that an override is then read through is DEDUCED
(log 20), and one iteration of `rep` a step is the model's choice (D22; log 15). -/
def Obligations.OutsResult : Prop :=
  outsWidth 8 .outsb .rep_outsb ∧ outsWidth 16 .outsw .rep_outsw ∧ outsWidth 32 .outsl .rep_outsl

/-- `rep outs` sends `%ecx` items and then ends, one iteration each time it is executed (the model's choice, D22; log
15); an override is read through (log 20). -/
def Obligations.RepOutsSendsTheBlock : Prop :=
  outsBlock 8 .rep_outsb ∧ outsBlock 16 .rep_outsw ∧ outsBlock 32 .rep_outsl

/-- At `CPL <= IOPL` every port is permitted; else exactly those the bitmap allows. -/
def Obligations.PortPermissionRule : Prop :=
  ∀ (s : State) (port : Half) (n : Nat),
    ioPermitted s port n = true ↔
      s.cpl.toNat ≤ s.flags.iopl.toNat ∨
        ∀ k < n, ∃ r ∈ s.plat.ioAllowed, r.base ≤ port.toNat + k ∧ port.toNat + k < r.base + r.size

/-! ### Flags -/

/-- `lahf` puts SF, ZF, AF, PF, CF at bits 7, 6, 4, 2, 0 of `%ah` and leaves the rest of `%eax`; `sahf` loads them
from there; neither changes another flag. -/
def Obligations.FlagByteTransfers : Prop :=
  ∀ s : State,
    (∃ t, exec .lahf s = .next t ∧ (readPart 8 partAH t).getLsbD 7 = s.flags.sf ∧
      (readPart 8 partAH t).getLsbD 6 = s.flags.zf ∧ (readPart 8 partAH t).getLsbD 4 = s.flags.af ∧
      (readPart 8 partAH t).getLsbD 2 = s.flags.pf ∧ (readPart 8 partAH t).getLsbD 0 = s.flags.cf ∧
      (∀ b, b < 8 ∨ 16 ≤ b → t.gpr.eax.getLsbD b = s.gpr.eax.getLsbD b) ∧ t.flags = s.flags ∧ advances s t) ∧
    ∃ t, exec .sahf s = .next t ∧ t.gpr = s.gpr ∧ advances s t ∧
      t.flags = { s.flags with sf := (readPart 8 partAH s).getLsbD 7, zf := (readPart 8 partAH s).getLsbD 6
                               af := (readPart 8 partAH s).getLsbD 4, pf := (readPart 8 partAH s).getLsbD 2
                               cf := (readPart 8 partAH s).getLsbD 0 }

/-- `cmc`, `clc`, `stc` act on CF alone, `cld`, `std` on DF alone. -/
def Obligations.CarryAndDirectionResult : Prop :=
  ∀ s : State,
    (∃ t, exec .cmc s = .next t ∧ t.flags = { s.flags with cf := !s.flags.cf } ∧ t.gpr = s.gpr ∧ advances s t) ∧
    (∃ t, exec .clc s = .next t ∧ t.flags = { s.flags with cf := false } ∧ t.gpr = s.gpr ∧ advances s t) ∧
    (∃ t, exec .stc s = .next t ∧ t.flags = { s.flags with cf := true } ∧ t.gpr = s.gpr ∧ advances s t) ∧
    (∃ t, exec .cld s = .next t ∧ t.flags = { s.flags with df := false } ∧ t.gpr = s.gpr ∧ advances s t) ∧
    ∃ t, exec .std s = .next t ∧ t.flags = { s.flags with df := true } ∧ t.gpr = s.gpr ∧ advances s t

/-- `cli` and `sti` write IF when `CPL <= IOPL`, else raise `#GP(0)`. -/
def Obligations.InterruptFlagResult : Prop :=
  ∀ s : State,
    (s.cpl.toNat ≤ s.flags.iopl.toNat →
      (∃ t, exec .cli s = .next t ∧ t.flags = { s.flags with intf := false } ∧ advances s t) ∧
      ∃ t, exec .sti s = .next t ∧ t.flags = { s.flags with intf := true } ∧ advances s t) ∧
    (s.flags.iopl.toNat < s.cpl.toNat →
      exec .cli s = .fault (.generalProtection s.pc) ∧ exec .sti s = .fault (.generalProtection s.pc))

/-- `popf`. -/
def Obligations.PopfResult : Prop := popsFlags 16 .popfw ∧ popsFlags 32 .popfl

/-- `popf` of an image that sets TF, or AC in the long form, is refused (D26). -/
def Obligations.PopfRefusesTrapImages : Prop :=
  (∀ (s : State) (v : Half), load 16 (s.linear .ss s.gpr.esp) s = .ok v → v.getLsbD 8 = true →
    exec .popfw s = .refused .popfSetsTF) ∧
  ∀ (s : State) (v : Word), load 32 (s.linear .ss s.gpr.esp) s = .ok v →
    (v.getLsbD 8 = true → exec .popfl s = .refused .popfSetsTF) ∧
    (v.getLsbD 8 = false → v.getLsbD 18 = true → exec .popfl s = .refused .popfSetsAC)

/-- `pushf`. -/
def Obligations.PushfResult : Prop := pushesFlags 16 .pushfw ∧ pushesFlags 32 .pushfl

/-- `pushfl` then `popfl` restores every flag and `%esp`. -/
def Obligations.PopfUndoesPushf : Prop :=
  ∀ s : State, s.Launched → s.canWrite (s.linear .ss (s.gpr.esp - 4#32)) 4 →
    s.canRead (s.linear .ss (s.gpr.esp - 4#32)) 4 →
    ∃ t u, exec .pushfl s = .next t ∧ exec .popfl t = .next u ∧ u.flags = s.flags ∧ u.gpr = s.gpr

/-! ### Memory, addresses, register names -/

/-- A read is the sum of its bytes by powers of 256; a write stores each byte at its address and no other. -/
def Obligations.MemoryPrimitives : Prop :=
  (∀ (s : State) (a : Word) (w : Nat), w = 8 ∨ w = 16 ∨ w = 32 → s.canRead a (w / 8) →
    ∃ v : BitVec w, load w a s = .ok v ∧
      v.toNat = ((List.range (w / 8)).map fun i => (s.mem.read (a.toNat + i)).toNat * 256 ^ i).sum) ∧
  ∀ (s : State) (a : Word) (w : Nat) (v : BitVec w), w = 8 ∨ w = 16 ∨ w = 32 → s.canWrite a (w / 8) →
    ∃ t, store a v s = .ok t ∧ keepsBytesOutside a (w / 8) s t ∧
      ∀ i < w / 8, (t.mem.read (a.toNat + i)).toNat = v.toNat / 256 ^ i % 256

/-- The effective address is `(disp + x[base] + x[index] * scale) mod 2^32`, the linear address the segment base plus
it, the default segment `%ss` for a base of `%ebp` or `%esp` and `%ds` otherwise. -/
def Obligations.AddressOfMemoryOperand : Prop :=
  ∀ (s : State) (m : MemOp),
    (effectiveAddress s m).toNat =
      (m.disp.toNat + (match m.base with | none => 0 | some r => (s.gpr.get r).toNat) +
        (match m.index with
          | none => 0
          | some (r, k) =>
            (s.gpr.get r).toNat * (match k with | .s1 => 1 | .s2 => 2 | .s4 => 4 | .s8 => 8))) % 2 ^ 32 ∧
    (operandAddress s m).toNat =
      ((s.plat.segBase.get (segmentOf m)).toNat + (effectiveAddress s m).toNat) % 2 ^ 32 ∧
    (∀ r, m.seg = some r → segmentOf m = r) ∧
    (m.seg = none → segmentOf m = if m.base = some .ebp ∨ m.base = some .esp then .ss else .ds)

/-- The 16- and 8-bit names are parts of the 32-bit registers, and a write to one leaves the other bits unchanged. -/
def Obligations.RegisterNamesArePartsOfLongs : Prop :=
  (∀ s : State,
    (readPart 16 (Reg16.part .ax) s).toNat = s.gpr.eax.toNat % 65536 ∧
    (readPart 16 (Reg16.part .cx) s).toNat = s.gpr.ecx.toNat % 65536 ∧
    (readPart 16 (Reg16.part .dx) s).toNat = s.gpr.edx.toNat % 65536 ∧
    (readPart 16 (Reg16.part .bx) s).toNat = s.gpr.ebx.toNat % 65536 ∧
    (readPart 16 (Reg16.part .si) s).toNat = s.gpr.esi.toNat % 65536 ∧
    (readPart 16 (Reg16.part .di) s).toNat = s.gpr.edi.toNat % 65536 ∧
    (readPart 16 (Reg16.part .bp) s).toNat = s.gpr.ebp.toNat % 65536 ∧
    (readPart 16 (Reg16.part .sp) s).toNat = s.gpr.esp.toNat % 65536 ∧
    (readPart 8 (Reg8.part .al) s).toNat = s.gpr.eax.toNat % 256 ∧
    (readPart 8 (Reg8.part .ah) s).toNat = s.gpr.eax.toNat / 256 % 256 ∧
    (readPart 8 (Reg8.part .cl) s).toNat = s.gpr.ecx.toNat % 256 ∧
    (readPart 8 (Reg8.part .ch) s).toNat = s.gpr.ecx.toNat / 256 % 256 ∧
    (readPart 8 (Reg8.part .dl) s).toNat = s.gpr.edx.toNat % 256 ∧
    (readPart 8 (Reg8.part .dh) s).toNat = s.gpr.edx.toNat / 256 % 256 ∧
    (readPart 8 (Reg8.part .bl) s).toNat = s.gpr.ebx.toNat % 256 ∧
    (readPart 8 (Reg8.part .bh) s).toNat = s.gpr.ebx.toNat / 256 % 256) ∧
  (∀ (s : State) (x : Reg8) (v : Byte), readPart 8 (Reg8.part x) (writePart (Reg8.part x) v s) = v ∧
    ∀ r b, outsideParts [(Reg8.part x, 8)] r b →
      ((writePart (Reg8.part x) v s).gpr.get r).getLsbD b = (s.gpr.get r).getLsbD b) ∧
  ∀ (s : State) (x : Reg16) (v : Half), readPart 16 (Reg16.part x) (writePart (Reg16.part x) v s) = v ∧
    ∀ r b, outsideParts [(Reg16.part x, 16)] r b →
      ((writePart (Reg16.part x) v s).gpr.get r).getLsbD b = (s.gpr.get r).getLsbD b

/-- The order of R265 where two exceptions meet: port permission before memory, memory before the divisor, the bounds
and the selector. -/
def Obligations.ExceptionPriority : Prop :=
  (∀ s : State, ioPermitted s (dxPort s) 4 = false → denied .write (s.linear .es s.gpr.edi) 4 s →
    exec .insl s = .fault (.ioPermission (dxPort s) s.pc)) ∧
  (∀ (s : State) (m : MemOp), s.mem.readLE (operandAddress s m).toNat 4 = 0 →
    denied .read (operandAddress s m) 4 s → memoryFaults (.divl (.mem m)) s) ∧
  (∀ (s : State) (x : Reg32) (m : MemOp), denied .read (operandAddress s m) 4 s → memoryFaults (.boundl x m) s) ∧
  ∀ (s : State) (r : SReg), denied .read (s.linear .ss s.gpr.esp) 4 s →
    selectorLoadable s r (BitVec.ofNat 16 (s.mem.readLE (s.linear .ss s.gpr.esp).toNat 2)) = false →
    memoryFaults (.popl (.sreg r)) s

end
end

