-- ==== Sys2Proof/Laws/Decode.lean ====
section
/-! SUPPORT. The pieces of the encoding, each read back as it was written. -/

namespace Sys2Proof

/-! ### Numbers of registers, scales and overrides (R22, R77, R79) -/

@[simp] theorem Reg32.ofCode_code (r : Reg32) : Reg32.ofCode r.code = r := by cases r <;> rfl
@[simp] theorem Reg16.ofCode_code (r : Reg16) : Reg16.ofCode r.code = r := by cases r <;> rfl
@[simp] theorem Reg8.ofCode_code (r : Reg8) : Reg8.ofCode r.code = r := by cases r <;> rfl
@[simp] theorem Scale.ofCode_code (k : Scale) : Scale.ofCode k.code = k := by cases k <;> rfl
@[simp] theorem SReg.ofOverride_overrideByte (r : SReg) : SReg.ofOverride r.overrideByte = some r := by cases r <;> rfl

theorem RM.map_map {ρ σ τ : Type} (f : ρ → σ) (g : σ → τ) (m : RM ρ) : (m.map f).map g = m.map (fun r => g (f r)) := by
  cases m <;> rfl

theorem RM.map_id' {ρ : Type} (m : RM ρ) : m.map (fun r => r) = m := by cases m <;> rfl

@[simp] theorem RM.map_reg32 (m : RM Reg32) : (m.map Reg32.code).map Reg32.ofCode = m := by
  cases m <;> simp [RM.map]
@[simp] theorem RM.map_reg16 (m : RM Reg16) : (m.map Reg16.code).map Reg16.ofCode = m := by
  cases m <;> simp [RM.map]
@[simp] theorem RM.map_reg8 (m : RM Reg8) : (m.map Reg8.code).map Reg8.ofCode = m := by
  cases m <;> simp [RM.map]

/-! ### Sequences of parsers -/

@[simp] theorem parseThen_ok {α β : Type} (a : α) (bs : List Byte) (f : α → List Byte → Parsed β) :
    parseThen (.ok (a, bs)) f = f a bs := rfl

@[simp] theorem parseThen_error {α β : Type} (e : DecodeError) (f : α → List Byte → Parsed β) :
    parseThen (.error e : Parsed α) f = .error e := rfl

/-! ### Multi-byte fields (R75, R80) -/

theorem takeLE_leBytes (k v : Nat) (rest : List Byte) :
    takeLE k (leBytes k v ++ rest) = .ok (v % 256 ^ k, rest) := by
  induction k generalizing v with
  | zero => simp [takeLE, leBytes, Nat.mod_one]
  | succ k ih =>
    simp only [leBytes, List.cons_append, takeLE, ih, parseThen_ok, BitVec.toNat_ofNat]
    rw [show (256 : Nat) ^ (k + 1) = 256 * 256 ^ k from Nat.pow_succ', Nat.mod_mul]

@[simp] theorem leBytes_length (k v : Nat) : (leBytes k v).length = k := by
  induction k generalizing v with
  | zero => rfl
  | succ k ih => simp [leBytes, ih]

@[simp] theorem takeImm8 (v : Byte) (rest : List Byte) : takeImm 8 (v :: rest) = .ok (v, rest) := by
  simp [takeImm, takeLE]

@[simp] theorem takeImm_immBytes16 (v : Half) (rest : List Byte) : takeImm 16 (immBytes v ++ rest) = .ok (v, rest) := by
  have := takeLE_leBytes 2 v.toNat rest
  simp only [takeImm, immBytes, Nat.reduceDiv, this, parseThen_ok]
  have h := v.isLt
  rw [Nat.mod_eq_of_lt (by omega), BitVec.ofNat_toNat, BitVec.setWidth_eq]

@[simp] theorem takeImm_immBytes32 (v : Word) (rest : List Byte) : takeImm 32 (immBytes v ++ rest) = .ok (v, rest) := by
  have := takeLE_leBytes 4 v.toNat rest
  simp only [takeImm, immBytes, Nat.reduceDiv, this, parseThen_ok]
  have h := v.isLt
  rw [Nat.mod_eq_of_lt (by omega), BitVec.ofNat_toNat, BitVec.setWidth_eq]

@[simp] theorem immBytes_8 (v : Byte) : immBytes v = [v] := by
  simp [immBytes, leBytes]

@[simp] theorem immBytes_length {n : Nat} (v : BitVec n) : (immBytes v).length = n / 8 := by simp [immBytes]

/-! ### ModRM and SIB (R76, R77) -/

@[simp] theorem packFields_hi (hi : BitVec 2) (mid lo : BitVec 3) : (packFields hi mid lo).extractLsb' 6 2 = hi := by
  revert hi mid lo; decide
@[simp] theorem packFields_mid (hi : BitVec 2) (mid lo : BitVec 3) : (packFields hi mid lo).extractLsb' 3 3 = mid := by
  revert hi mid lo; decide
@[simp] theorem packFields_lo (hi : BitVec 2) (mid lo : BitVec 3) : (packFields hi mid lo).extractLsb' 0 3 = lo := by
  revert hi mid lo; decide

theorem dispMod_ne_3 (b : Reg32) (d : Word) : dispMod b d ≠ 3#2 := by
  unfold dispMod
  split
  · decide
  · split <;> decide

theorem dispMod_zero {b : Reg32} {d : Word} (h : dispMod b d = 0#2) : d = 0#32 ∧ b ≠ .ebp := by
  unfold dispMod at h
  split at h
  · assumption
  · split at h <;> exact absurd h (by decide)

theorem takeDisp_dispBytes (b : Reg32) (d : Word) (rest : List Byte) :
    takeDisp (dispMod b d) (dispBytes (dispMod b d) d ++ rest) = .ok (d, rest) := by
  unfold dispMod
  split
  next h => simp [takeDisp, dispBytes, h.1]
  · split
    next h => simp [takeDisp, dispBytes, h]
    · simp [takeDisp, dispBytes]

theorem Reg32.code_eq_4 (r : Reg32) : r.code = 4#3 ↔ r = .esp := by cases r <;> decide
theorem Reg32.code_eq_5 (r : Reg32) : r.code = 5#3 ↔ r = .ebp := by cases r <;> decide

/-- The index an encoded SIB byte is read as. -/
theorem sib_index {x : Option (Reg32 × Scale)} (h : ∀ k, x ≠ some (.esp, k)) :
    (if indexCode x = 4#3 then none
      else some (Reg32.ofCode (indexCode x), Scale.ofCode (scaleCode x))) = x := by
  rcases x with _ | ⟨r, k⟩
  · simp [indexCode]
  · have hr : r ≠ .esp := fun e => h k (by rw [e])
    simp [indexCode, scaleCode, Reg32.code_eq_4, hr]

theorem MemOp.index_of_wf {m : MemOp} (h : m.wf = true) : ∀ k, m.index ≠ some (.esp, k) := by
  intro k e
  simp [MemOp.wf, e] at h

/-- The SIB byte of a memory operand is read back. -/
theorem takeSib_base (seg : Option SReg) (b : Reg32) (x : Option (Reg32 × Scale)) (d : Word) (rest : List Byte)
    (h : ∀ k, x ≠ some (.esp, k)) :
    takeSib seg (dispMod b d) (packFields (scaleCode x) (indexCode x) b.code :: (dispBytes (dispMod b d) d ++ rest)) =
      .ok ({ seg := seg, base := some b, index := x, disp := d }, rest) := by
  have hs := sib_index h
  have hb : ¬ (b.code = 5#3 ∧ dispMod b d = 0#2) := by
    rintro ⟨h1, h2⟩
    exact (dispMod_zero h2).2 ((Reg32.code_eq_5 b).1 h1)
  simp only [takeSib, packFields_hi, packFields_mid, packFields_lo, hs, if_neg hb, takeDisp_dispBytes, parseThen_ok,
    Reg32.ofCode_code]

/-- ModRM, SIB and displacement of a memory operand are read back (R76, R77). -/
theorem takeModRM_mem (g : BitVec 3) (m : MemOp) (rest : List Byte) (h : m.wf = true) :
    takeModRM m.seg (memBytes g m ++ rest) = .ok ((g, .mem m), rest) := by
  have hx := MemOp.index_of_wf h
  rcases m with ⟨seg, base, x, d⟩
  simp only at hx
  rcases base with _ | b
  · rcases x with _ | ⟨r, k⟩
    · simp [memBytes, takeModRM, takeMem]
    · have hs := sib_index (x := some (r, k)) hx
      simp only [memBytes, List.cons_append, takeModRM, packFields_hi, packFields_mid, packFields_lo, takeMem]
      simp only [takeSib, packFields_hi, packFields_mid, packFields_lo, hs]
      simp
  · have h3 := dispMod_ne_3 b d
    simp only [memBytes]
    split
    next hc =>
      obtain ⟨rfl, hb⟩ := hc
      have h4 : b.code ≠ 4#3 := fun e => hb ((Reg32.code_eq_4 b).1 e)
      have h5 : ¬ (b.code = 5#3 ∧ dispMod b d = 0#2) := by
        rintro ⟨h1, h2⟩
        exact (dispMod_zero h2).2 ((Reg32.code_eq_5 b).1 h1)
      simp only [List.cons_append, takeModRM, packFields_hi, packFields_mid, packFields_lo, h3, if_false, takeMem, h4,
        h5, takeDisp_dispBytes, parseThen_ok, Reg32.ofCode_code]
    · simp only [List.cons_append, takeModRM, packFields_hi, packFields_mid, packFields_lo, h3, if_false, takeMem,
        if_true, takeSib_base _ _ _ _ _ hx, parseThen_ok]

/-- The override an `r/m` operand carries. -/
def RM.segOf {ρ : Type} : RM ρ → Option SReg
  | .reg _ => none
  | .mem m => m.seg

@[simp] theorem RM.segOf_map {ρ σ : Type} (f : ρ → σ) (m : RM ρ) : (m.map f).segOf = m.segOf := by cases m <;> rfl
@[simp] theorem RM.wf_map {ρ σ : Type} (f : ρ → σ) (m : RM ρ) : (m.map f).wf = m.wf := by cases m <;> rfl

theorem RM.segBytes_eq {ρ : Type} (m : RM ρ) : m.segBytes = Sys2Proof.segBytes m.segOf := by cases m <;> rfl

/-- ModRM and what follows it are read back. -/
theorem takeModRM_modRMBytes (g : BitVec 3) (m : RM (BitVec 3)) (rest : List Byte) (h : m.wf = true) :
    takeModRM m.segOf (modRMBytes g m ++ rest) = .ok ((g, m), rest) := by
  cases m with
  | reg r => simp [takeModRM, modRMBytes, RM.segOf]
  | mem m => exact takeModRM_mem g m rest h

theorem modRMBytes_length_le (g : BitVec 3) (m : RM (BitVec 3)) : (modRMBytes g m).length ≤ 6 := by
  rcases m with r | ⟨seg, base, x, d⟩
  · simp [modRMBytes]
  · have hd (v : BitVec 2) : (dispBytes v d).length ≤ 4 := by
      unfold dispBytes
      split
      · simp
      · split <;> simp
    rcases base with _ | b
    · rcases x with _ | x <;> simp [modRMBytes, memBytes]
    · simp only [modRMBytes, memBytes]
      split <;> simp <;> have := hd (dispMod b d) <;> omega

/-! ### Prefixes (R79) -/

/-- An opcode byte that is no prefix byte. -/
def isPrefixByte (b : Byte) : Bool :=
  b == 0x66#8 || b == 0xF3#8 || b == 0x67#8 || b == 0xF0#8 || b == 0xF2#8 || (SReg.ofOverride b).isSome

theorem takePrefixes_opcode (p : Prefixes) (b : Byte) (rest : List Byte) (h : isPrefixByte b = false) :
    takePrefixes p (b :: rest) = .ok ((p, b), rest) := by
  simp only [isPrefixByte, Bool.or_eq_false_iff, beq_eq_false_iff_ne, ne_eq, Option.isSome_eq_false_iff,
    Option.isNone_iff_eq_none] at h
  obtain ⟨⟨⟨⟨⟨h1, h2⟩, h3⟩, h4⟩, h5⟩, h6⟩ := h
  simp [takePrefixes, h1, h2, h3, h4, h5, h6]

theorem takePrefixes_seg (p : Prefixes) (r : SReg) (rest : List Byte) (h : p.seg = none) :
    takePrefixes p (r.overrideByte :: rest) = takePrefixes { p with seg := some r } rest := by
  cases r <;> simp [takePrefixes, SReg.overrideByte, SReg.ofOverride, h]

/-- Override, size prefix, opcode, in the order the encoder writes them. -/
theorem takePrefixes_encoded (seg : Option SReg) (sz : OpSize) (b : Byte) (rest : List Byte)
    (h : isPrefixByte b = false) :
    takePrefixes { op16 := false, rep := false, seg := none } (segBytes seg ++ (sz.prefixBytes ++ b :: rest)) =
      .ok (({ op16 := sz == .word, rep := false, seg := seg }, b), rest) := by
  have hs : takePrefixes { op16 := false, rep := false, seg := none } (segBytes seg ++ (sz.prefixBytes ++ b :: rest)) =
      takePrefixes { op16 := false, rep := false, seg := seg } (sz.prefixBytes ++ b :: rest) := by
    cases seg with
    | none => rfl
    | some r => exact takePrefixes_seg _ r _ rfl
  rw [hs]
  cases sz with
  | byte => exact takePrefixes_opcode _ b rest h
  | long => exact takePrefixes_opcode _ b rest h
  | word =>
    have : takePrefixes { op16 := false, rep := false, seg := seg } (0x66#8 :: (b :: rest)) =
        takePrefixes { op16 := true, rep := false, seg := seg } (b :: rest) := by
      simp [takePrefixes]
    exact this.trans (takePrefixes_opcode _ b rest h)

/-! ### A whole row -/

/-- Decoding in two parts: prefixes and opcode byte, then the row. -/
theorem decode_of_parts {bs : List Byte} {p : Prefixes} {b : Byte} {tail rest : List Byte} {i : Instr} {n : Nat}
    (hp : takePrefixes { op16 := false, rep := false, seg := none } bs = .ok ((p, b), tail))
    (ho : decodeOpcode p b tail = .ok (i, rest)) (hn : bs.length = n + rest.length) : decode bs = .ok (i, n) := by
  simp only [decode, hp, parseThen_ok, ho, Except.ok.injEq, Prod.mk.injEq, true_and]
  omega

/-- A row with a ModRM byte decodes as its opcode does with its size and override. -/
theorem decode_encRM {sz : OpSize} {b : Byte} {ops : List Byte} {g : BitVec 3} {m : RM (BitVec 3)} {imm rest : List Byte}
    {i : Instr} (hb : isPrefixByte b = false)
    (ho : decodeOpcode { op16 := sz == .word, rep := false, seg := m.segOf } b
      (ops ++ (modRMBytes g m ++ (imm ++ rest))) = .ok (i, rest)) :
    decode (encRM sz (b :: ops) g m imm ++ rest) = .ok (i, (encRM sz (b :: ops) g m imm).length) := by
  have e : encRM sz (b :: ops) g m imm ++ rest =
      segBytes m.segOf ++ (sz.prefixBytes ++ b :: (ops ++ (modRMBytes g m ++ (imm ++ rest)))) := by
    simp [encRM, RM.segBytes_eq]
  exact decode_of_parts (by rw [e]; exact takePrefixes_encoded _ _ _ _ hb) ho (by simp)

/-- The same for a row without one. -/
theorem decode_encPlain {sz : OpSize} {b : Byte} {ops : List Byte} {imm rest : List Byte} {i : Instr}
    (hb : isPrefixByte b = false)
    (ho : decodeOpcode { op16 := sz == .word, rep := false, seg := none } b (ops ++ (imm ++ rest)) = .ok (i, rest)) :
    decode (encPlain sz (b :: ops) imm ++ rest) = .ok (i, (encPlain sz (b :: ops) imm).length) := by
  have e : encPlain sz (b :: ops) imm ++ rest = segBytes none ++ (sz.prefixBytes ++ b :: (ops ++ (imm ++ rest))) := by
    simp [encPlain, segBytes]
  exact decode_of_parts (by rw [e]; exact takePrefixes_encoded _ _ _ _ hb) ho (by simp)

theorem byte_op16 : (OpSize.byte == OpSize.word) = false := rfl
theorem word_op16 : (OpSize.word == OpSize.word) = true := rfl
theorem long_op16 : (OpSize.long == OpSize.word) = false := rfl

theorem takeModRM_byte (g : BitVec 3) (m : RM Reg8) (rest : List Byte) (h : m.wf = true) :
    takeModRM m.segOf (modRMBytes g (m.map Reg8.code) ++ rest) = .ok ((g, m.map Reg8.code), rest) := by
  simpa using takeModRM_modRMBytes g (m.map Reg8.code) rest (by simpa using h)

theorem takeModRM_word (g : BitVec 3) (m : RM Reg16) (rest : List Byte) (h : m.wf = true) :
    takeModRM m.segOf (modRMBytes g (m.map Reg16.code) ++ rest) = .ok ((g, m.map Reg16.code), rest) := by
  simpa using takeModRM_modRMBytes g (m.map Reg16.code) rest (by simpa using h)

theorem takeModRM_long (g : BitVec 3) (m : RM Reg32) (rest : List Byte) (h : m.wf = true) :
    takeModRM m.segOf (modRMBytes g (m.map Reg32.code) ++ rest) = .ok ((g, m.map Reg32.code), rest) := by
  simpa using takeModRM_modRMBytes g (m.map Reg32.code) rest (by simpa using h)

/-! ### Lengths (R75) -/

theorem encRM_length_le (sz : OpSize) (ops : List Byte) (g : BitVec 3) (m : RM (BitVec 3)) (imm : List Byte) :
    (encRM sz ops g m imm).length ≤ 7 + sz.prefixBytes.length + ops.length + imm.length := by
  have h := modRMBytes_length_le g m
  have hs : m.segBytes.length ≤ 1 := by
    rcases m with r | ⟨seg, base, x, d⟩
    · simp [RM.segBytes]
    · cases seg <;> simp [RM.segBytes, segBytes]
  simp only [encRM, List.length_append]
  omega

theorem encPlain_length (sz : OpSize) (ops imm : List Byte) :
    (encPlain sz ops imm).length = sz.prefixBytes.length + ops.length + imm.length := by simp [encPlain, Nat.add_assoc]

end Sys2Proof
end

