-- ==== Sys2Proof/Laws/State.lean ====
section
/-! SUPPORT. For every update of the state, what each field is after it, so that no proof unfolds a record update. -/

namespace Sys2Proof.Machine

/-! ### `State.setReg` -/

@[simp] theorem State.setReg_gpr (s : State) (r : Reg32) (v : Word) : (s.setReg r v).gpr = s.gpr.set r v := rfl
@[simp] theorem State.setReg_pc (s : State) (r : Reg32) (v : Word) : (s.setReg r v).pc = s.pc := rfl
@[simp] theorem State.setReg_flags (s : State) (r : Reg32) (v : Word) : (s.setReg r v).flags = s.flags := rfl
@[simp] theorem State.setReg_seg (s : State) (r : Reg32) (v : Word) : (s.setReg r v).seg = s.seg := rfl
@[simp] theorem State.setReg_cpl (s : State) (r : Reg32) (v : Word) : (s.setReg r v).cpl = s.cpl := rfl
@[simp] theorem State.setReg_sys (s : State) (r : Reg32) (v : Word) : (s.setReg r v).sys = s.sys := rfl
@[simp] theorem State.setReg_mem (s : State) (r : Reg32) (v : Word) : (s.setReg r v).mem = s.mem := rfl
@[simp] theorem State.setReg_shadow (s : State) (r : Reg32) (v : Word) : (s.setReg r v).shadow = s.shadow := rfl
@[simp] theorem State.setReg_portLog (s : State) (r : Reg32) (v : Word) : (s.setReg r v).portLog = s.portLog := rfl
@[simp] theorem State.setReg_portAnswers (s : State) (r : Reg32) (v : Word) : (s.setReg r v).portAnswers = s.portAnswers := rfl
@[simp] theorem State.setReg_plat (s : State) (r : Reg32) (v : Word) : (s.setReg r v).plat = s.plat := rfl
@[simp] theorem State.setReg_len (s : State) (r : Reg32) (v : Word) : (s.setReg r v).len = s.len := rfl
@[simp] theorem State.setReg_draws (s : State) (r : Reg32) (v : Word) : (s.setReg r v).draws = s.draws := rfl
@[simp] theorem State.setReg_pcNext (s : State) (r : Reg32) (v : Word) : (s.setReg r v).pcNext = s.pcNext := rfl

/-! ### `State.setFlags` -/

@[simp] theorem State.setFlags_gpr (s : State) (f : Flags) : (s.setFlags f).gpr = s.gpr := rfl
@[simp] theorem State.setFlags_pc (s : State) (f : Flags) : (s.setFlags f).pc = s.pc := rfl
@[simp] theorem State.setFlags_flags (s : State) (f : Flags) : (s.setFlags f).flags = f := rfl
@[simp] theorem State.setFlags_seg (s : State) (f : Flags) : (s.setFlags f).seg = s.seg := rfl
@[simp] theorem State.setFlags_cpl (s : State) (f : Flags) : (s.setFlags f).cpl = s.cpl := rfl
@[simp] theorem State.setFlags_sys (s : State) (f : Flags) : (s.setFlags f).sys = s.sys := rfl
@[simp] theorem State.setFlags_mem (s : State) (f : Flags) : (s.setFlags f).mem = s.mem := rfl
@[simp] theorem State.setFlags_shadow (s : State) (f : Flags) : (s.setFlags f).shadow = s.shadow := rfl
@[simp] theorem State.setFlags_portLog (s : State) (f : Flags) : (s.setFlags f).portLog = s.portLog := rfl
@[simp] theorem State.setFlags_portAnswers (s : State) (f : Flags) : (s.setFlags f).portAnswers = s.portAnswers := rfl
@[simp] theorem State.setFlags_plat (s : State) (f : Flags) : (s.setFlags f).plat = s.plat := rfl
@[simp] theorem State.setFlags_len (s : State) (f : Flags) : (s.setFlags f).len = s.len := rfl
@[simp] theorem State.setFlags_draws (s : State) (f : Flags) : (s.setFlags f).draws = s.draws := rfl
@[simp] theorem State.setFlags_pcNext (s : State) (f : Flags) : (s.setFlags f).pcNext = s.pcNext := rfl

/-! ### `State.setSeg` -/

@[simp] theorem State.setSeg_gpr (s : State) (r : SReg) (v : Half) : (s.setSeg r v).gpr = s.gpr := rfl
@[simp] theorem State.setSeg_pc (s : State) (r : SReg) (v : Half) : (s.setSeg r v).pc = s.pc := rfl
@[simp] theorem State.setSeg_flags (s : State) (r : SReg) (v : Half) : (s.setSeg r v).flags = s.flags := rfl
@[simp] theorem State.setSeg_seg (s : State) (r : SReg) (v : Half) : (s.setSeg r v).seg = s.seg.set r v := rfl
@[simp] theorem State.setSeg_cpl (s : State) (r : SReg) (v : Half) : (s.setSeg r v).cpl = s.cpl := rfl
@[simp] theorem State.setSeg_sys (s : State) (r : SReg) (v : Half) : (s.setSeg r v).sys = s.sys := rfl
@[simp] theorem State.setSeg_mem (s : State) (r : SReg) (v : Half) : (s.setSeg r v).mem = s.mem := rfl
@[simp] theorem State.setSeg_shadow (s : State) (r : SReg) (v : Half) : (s.setSeg r v).shadow = s.shadow := rfl
@[simp] theorem State.setSeg_portLog (s : State) (r : SReg) (v : Half) : (s.setSeg r v).portLog = s.portLog := rfl
@[simp] theorem State.setSeg_portAnswers (s : State) (r : SReg) (v : Half) : (s.setSeg r v).portAnswers = s.portAnswers := rfl
@[simp] theorem State.setSeg_plat (s : State) (r : SReg) (v : Half) : (s.setSeg r v).plat = s.plat := rfl
@[simp] theorem State.setSeg_len (s : State) (r : SReg) (v : Half) : (s.setSeg r v).len = s.len := rfl
@[simp] theorem State.setSeg_draws (s : State) (r : SReg) (v : Half) : (s.setSeg r v).draws = s.draws := rfl
@[simp] theorem State.setSeg_pcNext (s : State) (r : SReg) (v : Half) : (s.setSeg r v).pcNext = s.pcNext := rfl

/-! ### `State.setMem` -/

@[simp] theorem State.setMem_gpr (s : State) (m : Memory) : (s.setMem m).gpr = s.gpr := rfl
@[simp] theorem State.setMem_pc (s : State) (m : Memory) : (s.setMem m).pc = s.pc := rfl
@[simp] theorem State.setMem_flags (s : State) (m : Memory) : (s.setMem m).flags = s.flags := rfl
@[simp] theorem State.setMem_seg (s : State) (m : Memory) : (s.setMem m).seg = s.seg := rfl
@[simp] theorem State.setMem_cpl (s : State) (m : Memory) : (s.setMem m).cpl = s.cpl := rfl
@[simp] theorem State.setMem_sys (s : State) (m : Memory) : (s.setMem m).sys = s.sys := rfl
@[simp] theorem State.setMem_mem (s : State) (m : Memory) : (s.setMem m).mem = m := rfl
@[simp] theorem State.setMem_shadow (s : State) (m : Memory) : (s.setMem m).shadow = s.shadow := rfl
@[simp] theorem State.setMem_portLog (s : State) (m : Memory) : (s.setMem m).portLog = s.portLog := rfl
@[simp] theorem State.setMem_portAnswers (s : State) (m : Memory) : (s.setMem m).portAnswers = s.portAnswers := rfl
@[simp] theorem State.setMem_plat (s : State) (m : Memory) : (s.setMem m).plat = s.plat := rfl
@[simp] theorem State.setMem_len (s : State) (m : Memory) : (s.setMem m).len = s.len := rfl
@[simp] theorem State.setMem_draws (s : State) (m : Memory) : (s.setMem m).draws = s.draws := rfl
@[simp] theorem State.setMem_pcNext (s : State) (m : Memory) : (s.setMem m).pcNext = s.pcNext := rfl

/-! ### `State.setShadow` -/

@[simp] theorem State.setShadow_gpr (s : State) (b : Bool) : (s.setShadow b).gpr = s.gpr := rfl
@[simp] theorem State.setShadow_pc (s : State) (b : Bool) : (s.setShadow b).pc = s.pc := rfl
@[simp] theorem State.setShadow_flags (s : State) (b : Bool) : (s.setShadow b).flags = s.flags := rfl
@[simp] theorem State.setShadow_seg (s : State) (b : Bool) : (s.setShadow b).seg = s.seg := rfl
@[simp] theorem State.setShadow_cpl (s : State) (b : Bool) : (s.setShadow b).cpl = s.cpl := rfl
@[simp] theorem State.setShadow_sys (s : State) (b : Bool) : (s.setShadow b).sys = s.sys := rfl
@[simp] theorem State.setShadow_mem (s : State) (b : Bool) : (s.setShadow b).mem = s.mem := rfl
@[simp] theorem State.setShadow_shadow (s : State) (b : Bool) : (s.setShadow b).shadow = b := rfl
@[simp] theorem State.setShadow_portLog (s : State) (b : Bool) : (s.setShadow b).portLog = s.portLog := rfl
@[simp] theorem State.setShadow_portAnswers (s : State) (b : Bool) : (s.setShadow b).portAnswers = s.portAnswers := rfl
@[simp] theorem State.setShadow_plat (s : State) (b : Bool) : (s.setShadow b).plat = s.plat := rfl
@[simp] theorem State.setShadow_len (s : State) (b : Bool) : (s.setShadow b).len = s.len := rfl
@[simp] theorem State.setShadow_draws (s : State) (b : Bool) : (s.setShadow b).draws = s.draws := rfl
@[simp] theorem State.setShadow_pcNext (s : State) (b : Bool) : (s.setShadow b).pcNext = s.pcNext := rfl

/-! ### `State.setPc` -/

@[simp] theorem State.setPc_gpr (s : State) (v : Word) : (s.setPc v).gpr = s.gpr := rfl
@[simp] theorem State.setPc_pc (s : State) (v : Word) : (s.setPc v).pc = v := rfl
@[simp] theorem State.setPc_flags (s : State) (v : Word) : (s.setPc v).flags = s.flags := rfl
@[simp] theorem State.setPc_seg (s : State) (v : Word) : (s.setPc v).seg = s.seg := rfl
@[simp] theorem State.setPc_cpl (s : State) (v : Word) : (s.setPc v).cpl = s.cpl := rfl
@[simp] theorem State.setPc_sys (s : State) (v : Word) : (s.setPc v).sys = s.sys := rfl
@[simp] theorem State.setPc_mem (s : State) (v : Word) : (s.setPc v).mem = s.mem := rfl
@[simp] theorem State.setPc_shadow (s : State) (v : Word) : (s.setPc v).shadow = s.shadow := rfl
@[simp] theorem State.setPc_portLog (s : State) (v : Word) : (s.setPc v).portLog = s.portLog := rfl
@[simp] theorem State.setPc_portAnswers (s : State) (v : Word) : (s.setPc v).portAnswers = s.portAnswers := rfl
@[simp] theorem State.setPc_plat (s : State) (v : Word) : (s.setPc v).plat = s.plat := rfl
@[simp] theorem State.setPc_len (s : State) (v : Word) : (s.setPc v).len = s.len := rfl
@[simp] theorem State.setPc_draws (s : State) (v : Word) : (s.setPc v).draws = s.draws := rfl

/-! ### `State.setLen` -/

@[simp] theorem State.setLen_gpr (s : State) (v : Word) : (s.setLen v).gpr = s.gpr := rfl
@[simp] theorem State.setLen_pc (s : State) (v : Word) : (s.setLen v).pc = s.pc := rfl
@[simp] theorem State.setLen_flags (s : State) (v : Word) : (s.setLen v).flags = s.flags := rfl
@[simp] theorem State.setLen_seg (s : State) (v : Word) : (s.setLen v).seg = s.seg := rfl
@[simp] theorem State.setLen_cpl (s : State) (v : Word) : (s.setLen v).cpl = s.cpl := rfl
@[simp] theorem State.setLen_sys (s : State) (v : Word) : (s.setLen v).sys = s.sys := rfl
@[simp] theorem State.setLen_mem (s : State) (v : Word) : (s.setLen v).mem = s.mem := rfl
@[simp] theorem State.setLen_shadow (s : State) (v : Word) : (s.setLen v).shadow = s.shadow := rfl
@[simp] theorem State.setLen_portLog (s : State) (v : Word) : (s.setLen v).portLog = s.portLog := rfl
@[simp] theorem State.setLen_portAnswers (s : State) (v : Word) : (s.setLen v).portAnswers = s.portAnswers := rfl
@[simp] theorem State.setLen_plat (s : State) (v : Word) : (s.setLen v).plat = s.plat := rfl
@[simp] theorem State.setLen_len (s : State) (v : Word) : (s.setLen v).len = v := rfl
@[simp] theorem State.setLen_draws (s : State) (v : Word) : (s.setLen v).draws = s.draws := rfl

/-! ### `State.jumpTo` -/

@[simp] theorem State.jumpTo_gpr (s : State) (v : Word) : (s.jumpTo v).gpr = s.gpr := rfl
@[simp] theorem State.jumpTo_pc (s : State) (v : Word) : (s.jumpTo v).pc = v := rfl
@[simp] theorem State.jumpTo_flags (s : State) (v : Word) : (s.jumpTo v).flags = s.flags := rfl
@[simp] theorem State.jumpTo_seg (s : State) (v : Word) : (s.jumpTo v).seg = s.seg := rfl
@[simp] theorem State.jumpTo_cpl (s : State) (v : Word) : (s.jumpTo v).cpl = s.cpl := rfl
@[simp] theorem State.jumpTo_sys (s : State) (v : Word) : (s.jumpTo v).sys = s.sys := rfl
@[simp] theorem State.jumpTo_mem (s : State) (v : Word) : (s.jumpTo v).mem = s.mem := rfl
@[simp] theorem State.jumpTo_shadow (s : State) (v : Word) : (s.jumpTo v).shadow = false := rfl
@[simp] theorem State.jumpTo_portLog (s : State) (v : Word) : (s.jumpTo v).portLog = s.portLog := rfl
@[simp] theorem State.jumpTo_portAnswers (s : State) (v : Word) : (s.jumpTo v).portAnswers = s.portAnswers := rfl
@[simp] theorem State.jumpTo_plat (s : State) (v : Word) : (s.jumpTo v).plat = s.plat := rfl
@[simp] theorem State.jumpTo_len (s : State) (v : Word) : (s.jumpTo v).len = s.len := rfl
@[simp] theorem State.jumpTo_draws (s : State) (v : Word) : (s.jumpTo v).draws = s.draws := rfl

/-! ### `State.advance` -/

@[simp] theorem State.advance_gpr (s : State) : (s.advance).gpr = s.gpr := rfl
@[simp] theorem State.advance_pc (s : State) : (s.advance).pc = s.pcNext := rfl
@[simp] theorem State.advance_flags (s : State) : (s.advance).flags = s.flags := rfl
@[simp] theorem State.advance_seg (s : State) : (s.advance).seg = s.seg := rfl
@[simp] theorem State.advance_cpl (s : State) : (s.advance).cpl = s.cpl := rfl
@[simp] theorem State.advance_sys (s : State) : (s.advance).sys = s.sys := rfl
@[simp] theorem State.advance_mem (s : State) : (s.advance).mem = s.mem := rfl
@[simp] theorem State.advance_shadow (s : State) : (s.advance).shadow = false := rfl
@[simp] theorem State.advance_portLog (s : State) : (s.advance).portLog = s.portLog := rfl
@[simp] theorem State.advance_portAnswers (s : State) : (s.advance).portAnswers = s.portAnswers := rfl
@[simp] theorem State.advance_plat (s : State) : (s.advance).plat = s.plat := rfl
@[simp] theorem State.advance_len (s : State) : (s.advance).len = s.len := rfl
@[simp] theorem State.advance_draws (s : State) : (s.advance).draws = s.draws := rfl

/-! ### `State.drew` -/

@[simp] theorem State.drew_gpr (s : State) (n : Nat) : (s.drew n).gpr = s.gpr := rfl
@[simp] theorem State.drew_pc (s : State) (n : Nat) : (s.drew n).pc = s.pc := rfl
@[simp] theorem State.drew_flags (s : State) (n : Nat) : (s.drew n).flags = s.flags := rfl
@[simp] theorem State.drew_seg (s : State) (n : Nat) : (s.drew n).seg = s.seg := rfl
@[simp] theorem State.drew_cpl (s : State) (n : Nat) : (s.drew n).cpl = s.cpl := rfl
@[simp] theorem State.drew_sys (s : State) (n : Nat) : (s.drew n).sys = s.sys := rfl
@[simp] theorem State.drew_mem (s : State) (n : Nat) : (s.drew n).mem = s.mem := rfl
@[simp] theorem State.drew_shadow (s : State) (n : Nat) : (s.drew n).shadow = s.shadow := rfl
@[simp] theorem State.drew_portLog (s : State) (n : Nat) : (s.drew n).portLog = s.portLog := rfl
@[simp] theorem State.drew_portAnswers (s : State) (n : Nat) : (s.drew n).portAnswers = s.portAnswers := rfl
@[simp] theorem State.drew_plat (s : State) (n : Nat) : (s.drew n).plat = s.plat := rfl
@[simp] theorem State.drew_len (s : State) (n : Nat) : (s.drew n).len = s.len := rfl
@[simp] theorem State.drew_draws (s : State) (n : Nat) : (s.drew n).draws = s.draws + n := rfl
@[simp] theorem State.drew_pcNext (s : State) (n : Nat) : (s.drew n).pcNext = s.pcNext := rfl

/-! ### `State.popped` -/

@[simp] theorem State.popped_gpr (s : State) (w : Nat) : (s.popped w).gpr = s.gpr.set .esp (s.gpr.esp + itemStep w) := rfl
@[simp] theorem State.popped_pc (s : State) (w : Nat) : (s.popped w).pc = s.pc := rfl
@[simp] theorem State.popped_flags (s : State) (w : Nat) : (s.popped w).flags = s.flags := rfl
@[simp] theorem State.popped_seg (s : State) (w : Nat) : (s.popped w).seg = s.seg := rfl
@[simp] theorem State.popped_cpl (s : State) (w : Nat) : (s.popped w).cpl = s.cpl := rfl
@[simp] theorem State.popped_sys (s : State) (w : Nat) : (s.popped w).sys = s.sys := rfl
@[simp] theorem State.popped_mem (s : State) (w : Nat) : (s.popped w).mem = s.mem := rfl
@[simp] theorem State.popped_shadow (s : State) (w : Nat) : (s.popped w).shadow = s.shadow := rfl
@[simp] theorem State.popped_portLog (s : State) (w : Nat) : (s.popped w).portLog = s.portLog := rfl
@[simp] theorem State.popped_portAnswers (s : State) (w : Nat) : (s.popped w).portAnswers = s.portAnswers := rfl
@[simp] theorem State.popped_plat (s : State) (w : Nat) : (s.popped w).plat = s.plat := rfl
@[simp] theorem State.popped_len (s : State) (w : Nat) : (s.popped w).len = s.len := rfl
@[simp] theorem State.popped_draws (s : State) (w : Nat) : (s.popped w).draws = s.draws := rfl
@[simp] theorem State.popped_pcNext (s : State) (w : Nat) : (s.popped w).pcNext = s.pcNext := rfl

/-! ### `State.logged` -/

@[simp] theorem State.logged_gpr (s : State) (e : PortEvent) : (s.logged e).gpr = s.gpr := rfl
@[simp] theorem State.logged_pc (s : State) (e : PortEvent) : (s.logged e).pc = s.pc := rfl
@[simp] theorem State.logged_flags (s : State) (e : PortEvent) : (s.logged e).flags = s.flags := rfl
@[simp] theorem State.logged_seg (s : State) (e : PortEvent) : (s.logged e).seg = s.seg := rfl
@[simp] theorem State.logged_cpl (s : State) (e : PortEvent) : (s.logged e).cpl = s.cpl := rfl
@[simp] theorem State.logged_sys (s : State) (e : PortEvent) : (s.logged e).sys = s.sys := rfl
@[simp] theorem State.logged_mem (s : State) (e : PortEvent) : (s.logged e).mem = s.mem := rfl
@[simp] theorem State.logged_shadow (s : State) (e : PortEvent) : (s.logged e).shadow = s.shadow := rfl
@[simp] theorem State.logged_portLog (s : State) (e : PortEvent) : (s.logged e).portLog = s.portLog ++ [e] := rfl
@[simp] theorem State.logged_portAnswers (s : State) (e : PortEvent) : (s.logged e).portAnswers = s.portAnswers := rfl
@[simp] theorem State.logged_plat (s : State) (e : PortEvent) : (s.logged e).plat = s.plat := rfl
@[simp] theorem State.logged_len (s : State) (e : PortEvent) : (s.logged e).len = s.len := rfl
@[simp] theorem State.logged_draws (s : State) (e : PortEvent) : (s.logged e).draws = s.draws := rfl
@[simp] theorem State.logged_pcNext (s : State) (e : PortEvent) : (s.logged e).pcNext = s.pcNext := rfl

/-! ### `State.answered` -/

@[simp] theorem State.answered_gpr (s : State) : (s.answered).gpr = s.gpr := rfl
@[simp] theorem State.answered_pc (s : State) : (s.answered).pc = s.pc := rfl
@[simp] theorem State.answered_flags (s : State) : (s.answered).flags = s.flags := rfl
@[simp] theorem State.answered_seg (s : State) : (s.answered).seg = s.seg := rfl
@[simp] theorem State.answered_cpl (s : State) : (s.answered).cpl = s.cpl := rfl
@[simp] theorem State.answered_sys (s : State) : (s.answered).sys = s.sys := rfl
@[simp] theorem State.answered_mem (s : State) : (s.answered).mem = s.mem := rfl
@[simp] theorem State.answered_shadow (s : State) : (s.answered).shadow = s.shadow := rfl
@[simp] theorem State.answered_portLog (s : State) : (s.answered).portLog = s.portLog := rfl
@[simp] theorem State.answered_portAnswers (s : State) : (s.answered).portAnswers = s.portAnswers.tail := rfl
@[simp] theorem State.answered_plat (s : State) : (s.answered).plat = s.plat := rfl
@[simp] theorem State.answered_len (s : State) : (s.answered).len = s.len := rfl
@[simp] theorem State.answered_draws (s : State) : (s.answered).draws = s.draws := rfl
@[simp] theorem State.answered_pcNext (s : State) : (s.answered).pcNext = s.pcNext := rfl

/-! ### `State.afterPortRead` -/

@[simp] theorem State.afterPortRead_gpr (s : State) (w : Nat) (p : Half) : (s.afterPortRead w p).gpr = s.gpr := rfl
@[simp] theorem State.afterPortRead_pc (s : State) (w : Nat) (p : Half) : (s.afterPortRead w p).pc = s.pc := rfl
@[simp] theorem State.afterPortRead_flags (s : State) (w : Nat) (p : Half) : (s.afterPortRead w p).flags = s.flags := rfl
@[simp] theorem State.afterPortRead_seg (s : State) (w : Nat) (p : Half) : (s.afterPortRead w p).seg = s.seg := rfl
@[simp] theorem State.afterPortRead_cpl (s : State) (w : Nat) (p : Half) : (s.afterPortRead w p).cpl = s.cpl := rfl
@[simp] theorem State.afterPortRead_sys (s : State) (w : Nat) (p : Half) : (s.afterPortRead w p).sys = s.sys := rfl
@[simp] theorem State.afterPortRead_mem (s : State) (w : Nat) (p : Half) : (s.afterPortRead w p).mem = s.mem := rfl
@[simp] theorem State.afterPortRead_shadow (s : State) (w : Nat) (p : Half) : (s.afterPortRead w p).shadow = s.shadow := rfl
@[simp] theorem State.afterPortRead_portLog (s : State) (w : Nat) (p : Half) : (s.afterPortRead w p).portLog = s.portLog ++ [portEvent .read p (portAnswer w p s)] := rfl
@[simp] theorem State.afterPortRead_portAnswers (s : State) (w : Nat) (p : Half) : (s.afterPortRead w p).portAnswers = s.portAnswers.tail := rfl
@[simp] theorem State.afterPortRead_plat (s : State) (w : Nat) (p : Half) : (s.afterPortRead w p).plat = s.plat := rfl
@[simp] theorem State.afterPortRead_len (s : State) (w : Nat) (p : Half) : (s.afterPortRead w p).len = s.len := rfl
@[simp] theorem State.afterPortRead_draws (s : State) (w : Nat) (p : Half) : (s.afterPortRead w p).draws = s.draws := rfl
@[simp] theorem State.afterPortRead_pcNext (s : State) (w : Nat) (p : Half) : (s.afterPortRead w p).pcNext = s.pcNext := rfl

/-! ### `State.advanceAfterLoad` -/

@[simp] theorem State.advanceAfterLoad_gpr (s : State) (r : SReg) : (s.advanceAfterLoad r).gpr = s.gpr := rfl
@[simp] theorem State.advanceAfterLoad_pc (s : State) (r : SReg) : (s.advanceAfterLoad r).pc = s.pcNext := rfl
@[simp] theorem State.advanceAfterLoad_flags (s : State) (r : SReg) : (s.advanceAfterLoad r).flags = s.flags := rfl
@[simp] theorem State.advanceAfterLoad_seg (s : State) (r : SReg) : (s.advanceAfterLoad r).seg = s.seg := rfl
@[simp] theorem State.advanceAfterLoad_cpl (s : State) (r : SReg) : (s.advanceAfterLoad r).cpl = s.cpl := rfl
@[simp] theorem State.advanceAfterLoad_sys (s : State) (r : SReg) : (s.advanceAfterLoad r).sys = s.sys := rfl
@[simp] theorem State.advanceAfterLoad_mem (s : State) (r : SReg) : (s.advanceAfterLoad r).mem = s.mem := rfl
@[simp] theorem State.advanceAfterLoad_shadow (s : State) (r : SReg) : (s.advanceAfterLoad r).shadow = (r == .ss) := rfl
@[simp] theorem State.advanceAfterLoad_portLog (s : State) (r : SReg) : (s.advanceAfterLoad r).portLog = s.portLog := rfl
@[simp] theorem State.advanceAfterLoad_portAnswers (s : State) (r : SReg) : (s.advanceAfterLoad r).portAnswers = s.portAnswers := rfl
@[simp] theorem State.advanceAfterLoad_plat (s : State) (r : SReg) : (s.advanceAfterLoad r).plat = s.plat := rfl
@[simp] theorem State.advanceAfterLoad_len (s : State) (r : SReg) : (s.advanceAfterLoad r).len = s.len := rfl
@[simp] theorem State.advanceAfterLoad_draws (s : State) (r : SReg) : (s.advanceAfterLoad r).draws = s.draws := rfl

/-! ### `writePart` -/

@[simp] theorem writePart_gpr (s : State) {w : Nat} (p : Part) (v : BitVec w) : (writePart p v s).gpr = s.gpr.set p.reg (insertBits (s.gpr.get p.reg) p.lo v) := rfl
@[simp] theorem writePart_pc (s : State) {w : Nat} (p : Part) (v : BitVec w) : (writePart p v s).pc = s.pc := rfl
@[simp] theorem writePart_flags (s : State) {w : Nat} (p : Part) (v : BitVec w) : (writePart p v s).flags = s.flags := rfl
@[simp] theorem writePart_seg (s : State) {w : Nat} (p : Part) (v : BitVec w) : (writePart p v s).seg = s.seg := rfl
@[simp] theorem writePart_cpl (s : State) {w : Nat} (p : Part) (v : BitVec w) : (writePart p v s).cpl = s.cpl := rfl
@[simp] theorem writePart_sys (s : State) {w : Nat} (p : Part) (v : BitVec w) : (writePart p v s).sys = s.sys := rfl
@[simp] theorem writePart_mem (s : State) {w : Nat} (p : Part) (v : BitVec w) : (writePart p v s).mem = s.mem := rfl
@[simp] theorem writePart_shadow (s : State) {w : Nat} (p : Part) (v : BitVec w) : (writePart p v s).shadow = s.shadow := rfl
@[simp] theorem writePart_portLog (s : State) {w : Nat} (p : Part) (v : BitVec w) : (writePart p v s).portLog = s.portLog := rfl
@[simp] theorem writePart_portAnswers (s : State) {w : Nat} (p : Part) (v : BitVec w) : (writePart p v s).portAnswers = s.portAnswers := rfl
@[simp] theorem writePart_plat (s : State) {w : Nat} (p : Part) (v : BitVec w) : (writePart p v s).plat = s.plat := rfl
@[simp] theorem writePart_len (s : State) {w : Nat} (p : Part) (v : BitVec w) : (writePart p v s).len = s.len := rfl
@[simp] theorem writePart_draws (s : State) {w : Nat} (p : Part) (v : BitVec w) : (writePart p v s).draws = s.draws := rfl
@[simp] theorem writePart_pcNext (s : State) {w : Nat} (p : Part) (v : BitVec w) : (writePart p v s).pcNext = s.pcNext := rfl

/-! ### The accesses of an operand -/

@[simp] theorem destBytes_reg (w : Nat) (p : Part) (s : State) : destBytes w (.reg p) s = none := rfl
@[simp] theorem destBytes_mem (w : Nat) (m : MemOp) (s : State) :
    destBytes w (.mem m) s = some (operandAddress s m, w / 8) := rfl
@[simp] theorem rmBytes_reg (w : Nat) (p : Part) (s : State) : rmBytes w (.reg p) s = [] := rfl
@[simp] theorem rmBytes_mem (w : Nat) (m : MemOp) (s : State) :
    rmBytes w (.mem m) s = [(operandAddress s m, w / 8)] := rfl
@[simp] theorem srcBytes_imm {w : Nat} (v : BitVec w) (s : State) : srcBytes (.imm v) s = [] := rfl
@[simp] theorem srcBytes_rm {w : Nat} (m : RM Part) (s : State) : srcBytes (w := w) (.rm m) s = rmBytes w m s := rfl

end Sys2Proof.Machine
end

