-- ==== Sys2Proof/Laws/Memory.lean ====
section
/-! SUPPORT. Memory: reading after writing, and that every operation keeps the canonical form. -/

namespace Sys2Proof.Machine

/-! ### The canonical form -/

theorem Memory.wf_iff (m : Memory) :
    m.wf = true ↔ m.Pairwise (fun c d => c.1 < d.1) ∧ ∀ c ∈ m, c.1 < addressSpace ∧ c.2 ≠ unlistedByte := by
  induction m with
  | nil => simp [Memory.wf]
  | cons c m ih =>
    simp only [Memory.wf, Bool.and_eq_true, decide_eq_true_eq, bne_iff_ne, List.all_eq_true, ih,
      List.pairwise_cons, List.mem_cons, forall_eq_or_imp]
    tauto

theorem Memory.wf_nil : Memory.wf [] = true := rfl

theorem reset_mem_wf : State.reset.mem.wf = true := rfl

theorem Memory.mem_erase (m : Memory) (a : Nat) (c : Host.Cell) : c ∈ m.erase a ↔ c ∈ m ∧ c.1 ≠ a := by
  simp [Memory.erase]

theorem Memory.mem_insert (m : Memory) (a : Nat) (v : Byte) (c : Host.Cell) :
    c ∈ m.insert a v ↔ c = (a, v) ∨ c ∈ m := by
  induction m with
  | nil => simp [Memory.insert]
  | cons d m ih =>
    simp only [Memory.insert]
    split
    · simp
    · simp only [List.mem_cons, ih]; tauto

theorem Memory.pairwise_insert (m : Memory) (a : Nat) (v : Byte) (h : m.Pairwise (fun c d => c.1 < d.1))
    (ha : ∀ c ∈ m, c.1 ≠ a) : (m.insert a v).Pairwise (fun c d => c.1 < d.1) := by
  induction m with
  | nil => simp [Memory.insert]
  | cons d m ih =>
    obtain ⟨hd, hm⟩ := List.pairwise_cons.1 h
    simp only [Memory.insert]
    split
    next hlt =>
      refine List.pairwise_cons.2 ⟨?_, h⟩
      intro c hc
      rcases List.mem_cons.1 hc with rfl | hc
      · exact hlt
      · exact Nat.lt_trans hlt (hd c hc)
    next hge =>
      refine List.pairwise_cons.2 ⟨?_, ih hm (fun c hc => ha c (List.mem_cons_of_mem _ hc))⟩
      intro c hc
      rcases (Memory.mem_insert m a v c).1 hc with rfl | hc
      · have := ha d List.mem_cons_self
        simp only
        omega
      · exact hd c hc

/-- A write below the top keeps the canonical form. -/
theorem Memory.wf_write (m : Memory) (a : Nat) (v : Byte) (h : m.wf = true) (ha : a < addressSpace) :
    (m.write a v).wf = true := by
  obtain ⟨hp, hm⟩ := (Memory.wf_iff m).1 h
  have he : (m.erase a).Pairwise (fun c d => c.1 < d.1) := hp.filter _
  have hme : ∀ c ∈ m.erase a, c.1 < addressSpace ∧ c.2 ≠ unlistedByte :=
    fun c hc => hm c ((Memory.mem_erase m a c).1 hc).1
  rw [Memory.wf_iff]
  unfold Memory.write
  split
  · exact ⟨he, hme⟩
  next hv =>
    refine ⟨Memory.pairwise_insert _ a v he (fun c hc => ((Memory.mem_erase m a c).1 hc).2), ?_⟩
    intro c hc
    rcases (Memory.mem_insert _ a v c).1 hc with rfl | hc
    · exact ⟨ha, hv⟩
    · exact hme c hc

/-! ### Reading after writing one byte -/

theorem Memory.read_erase (m : Memory) (a b : Nat) :
    (m.erase a).read b = if b = a then unlistedByte else m.read b := by
  induction m with
  | nil => simp [Memory.erase, Memory.read]
  | cons c m ih =>
    have ih : Memory.read (List.filter (fun c => c.1 != a) m) b = if b = a then unlistedByte else Memory.read m b := ih
    rcases Decidable.em (c.1 = a) with hc | hc
    · have : Memory.erase (c :: m) a = List.filter (fun c => c.1 != a) m := by simp [Memory.erase, hc]
      rw [this, ih]
      simp only [Memory.read]
      split
      · rfl
      next hb => rw [if_neg (by omega)]
    · have : Memory.erase (c :: m) a = c :: List.filter (fun c => c.1 != a) m := by simp [Memory.erase, hc]
      rw [this]
      simp only [Memory.read, ih]
      split
      next hcb => rw [if_neg (by omega)]
      · rfl

theorem Memory.read_insert (m : Memory) (a : Nat) (v : Byte) (b : Nat) (ha : ∀ c ∈ m, c.1 ≠ a) :
    (m.insert a v).read b = if b = a then v else m.read b := by
  induction m with
  | nil => simp [Memory.insert, Memory.read, eq_comm]
  | cons c m ih =>
    have hc := ha c List.mem_cons_self
    simp only [Memory.insert]
    split
    · simp only [Memory.read, eq_comm]
    · simp only [Memory.read, ih (fun d hd => ha d (List.mem_cons_of_mem _ hd))]
      split
      next hcb => rw [if_neg (by omega)]
      · rfl

/-- What a byte reads as after a write. -/
theorem Memory.read_write (m : Memory) (a : Nat) (v : Byte) (b : Nat) :
    (m.write a v).read b = if b = a then v else m.read b := by
  unfold Memory.write
  split
  next hv => rw [Memory.read_erase, hv]
  · rw [Memory.read_insert _ a v b (fun c hc => ((Memory.mem_erase m a c).1 hc).2), Memory.read_erase]
    split <;> rfl

@[simp] theorem Memory.read_write_same (m : Memory) (a : Nat) (v : Byte) : (m.write a v).read a = v := by
  simp [Memory.read_write]

theorem Memory.read_write_other (m : Memory) (a : Nat) (v : Byte) {b : Nat} (h : b ≠ a) :
    (m.write a v).read b = m.read b := by simp [Memory.read_write, h]

/-! ### Several bytes, least significant at the lowest address (R51, R52) -/

theorem Memory.wf_writeLE (m : Memory) (a v n : Nat) (h : m.wf = true) (ha : a + n ≤ addressSpace) :
    (m.writeLE a v n).wf = true := by
  induction n generalizing m a v with
  | zero => exact h
  | succ n ih => exact ih _ _ _ (Memory.wf_write m a _ h (by omega)) (by omega)

/-- A byte outside the stored ones. -/
theorem Memory.read_writeLE_outside (m : Memory) (a v n b : Nat) (h : b < a ∨ a + n ≤ b) :
    (m.writeLE a v n).read b = m.read b := by
  induction n generalizing m a v with
  | zero => rfl
  | succ n ih => rw [Memory.writeLE, ih _ _ _ (by omega), Memory.read_write_other _ _ _ (by omega)]

/-- A stored byte. -/
theorem Memory.read_writeLE_inside (m : Memory) (a v n i : Nat) (h : i < n) :
    (m.writeLE a v n).read (a + i) = BitVec.ofNat 8 (v / 256 ^ i) := by
  induction n generalizing m a v i with
  | zero => omega
  | succ n ih =>
    rw [Memory.writeLE]
    cases i with
    | zero => simp [Memory.read_writeLE_outside]
    | succ i =>
      rw [show a + (i + 1) = a + 1 + i by omega, ih _ _ _ _ (by omega), Nat.div_div_eq_div_mul, Nat.pow_succ,
        Nat.mul_comm]

theorem Memory.readLE_congr (m m' : Memory) (a n : Nat) (h : ∀ i < n, m'.read (a + i) = m.read (a + i)) :
    m'.readLE a n = m.readLE a n := by
  induction n generalizing a with
  | zero => rfl
  | succ n ih =>
    have h0 := h 0 (by omega)
    have := ih (a + 1) (fun i hi => by have := h (i + 1) (by omega); rwa [show a + 1 + i = a + (i + 1) by omega])
    simp only [Memory.readLE, this]
    simp only [Nat.add_zero] at h0
    rw [h0]

theorem Memory.readLE_lt (m : Memory) (a n : Nat) : m.readLE a n < 256 ^ n := by
  induction n generalizing a with
  | zero => simp [Memory.readLE]
  | succ n ih =>
    have := ih (a + 1)
    have hb := (m.read a).isLt
    simp only [Memory.readLE, Nat.pow_succ]
    omega

/-- What was stored is read back. -/
theorem Memory.readLE_writeLE (m : Memory) (a v n : Nat) : (m.writeLE a v n).readLE a n = v % 256 ^ n := by
  induction n generalizing m a v with
  | zero => simp [Memory.readLE, Nat.mod_one]
  | succ n ih =>
    simp only [Memory.readLE, Memory.writeLE]
    rw [Memory.read_writeLE_outside _ _ _ _ _ (by omega), Memory.read_write_same, ih, BitVec.toNat_ofNat]
    rw [show (256 : Nat) ^ (n + 1) = 256 * 256 ^ n from Nat.pow_succ', Nat.mod_mul]

/-- A read that meets no stored byte. -/
theorem Memory.readLE_writeLE_outside (m : Memory) (a v n b k : Nat) (h : b + k ≤ a ∨ a + n ≤ b) :
    (m.writeLE a v n).readLE b k = m.readLE b k :=
  Memory.readLE_congr _ _ _ _ (fun i hi => Memory.read_writeLE_outside _ _ _ _ _ (by omega))

/-! ### Loading bytes -/

theorem Memory.wf_writeBytes (m : Memory) (a : Nat) (bs : List Byte) (h : m.wf = true) :
    (m.writeBytes a bs).wf = true := by
  induction bs generalizing m a with
  | nil => exact h
  | cons b bs ih =>
    rw [Memory.writeBytes]
    split
    next ha => exact ih _ _ (Memory.wf_write m a b h ha)
    · exact h

end Sys2Proof.Machine
end

