-- ==== Sys2Proof/Laws/Registers.lean ====
section
/-! SUPPORT. Register files and register parts: reading after writing. -/

namespace Sys2Proof.Machine

@[simp] theorem Gpr.get_set_same (g : Gpr) (r : Reg32) (v : Word) : (g.set r v).get r = v := by cases r <;> rfl

theorem Gpr.get_set_other (g : Gpr) {r q : Reg32} (v : Word) (h : q ≠ r) : (g.set r v).get q = g.get q := by
  cases r <;> cases q <;> first | rfl | exact absurd rfl h

theorem Gpr.get_set (g : Gpr) (r q : Reg32) (v : Word) :
    (g.set r v).get q = if q = r then v else g.get q := by
  split
  next h => subst h; simp
  next h => exact Gpr.get_set_other g v h

theorem Gpr.esp_eq_get (g : Gpr) : g.esp = g.get .esp := rfl
theorem Gpr.ecx_eq_get (g : Gpr) : g.ecx = g.get .ecx := rfl
theorem Gpr.esi_eq_get (g : Gpr) : g.esi = g.get .esi := rfl
theorem Gpr.edi_eq_get (g : Gpr) : g.edi = g.get .edi := rfl

theorem Gpr.ext_get {g h : Gpr} (e : ∀ r, g.get r = h.get r) : g = h := by
  cases g; cases h
  have h0 := e .eax; have h1 := e .ecx; have h2 := e .edx; have h3 := e .ebx
  have h4 := e .esp; have h5 := e .ebp; have h6 := e .esi; have h7 := e .edi
  simp only [Gpr.get] at h0 h1 h2 h3 h4 h5 h6 h7
  simp only [h0, h1, h2, h3, h4, h5, h6, h7]

theorem Gpr.set_set (g : Gpr) (r : Reg32) (v w : Word) : (g.set r v).set r w = g.set r w := by cases r <;> rfl

theorem Gpr.set_get (g : Gpr) (r : Reg32) : g.set r (g.get r) = g := by cases r <;> rfl

@[simp] theorem SegRegs.get_set_same (g : SegRegs) (r : SReg) (v : Half) : (g.set r v).get r = v := by
  cases r <;> rfl

theorem SegRegs.get_set_other (g : SegRegs) {r q : SReg} (v : Half) (h : q ≠ r) : (g.set r v).get q = g.get q := by
  cases r <;> cases q <;> first | rfl | exact absurd rfl h

/-! ### Parts (R21) -/

/-- Bit by bit, what a partial write leaves. -/
theorem insertBits_getLsbD {w : Nat} (old : Word) (lo : Nat) (v : BitVec w) (i : Nat) (h : lo + w ≤ 32) :
    (insertBits old lo v).getLsbD i =
      if lo ≤ i ∧ i < lo + w then v.getLsbD (i - lo) else old.getLsbD i := by
  simp only [insertBits, BitVec.getLsbD_or, BitVec.getLsbD_and, BitVec.getLsbD_not, BitVec.getLsbD_shiftLeft,
    BitVec.getLsbD_setWidth, BitVec.getLsbD_allOnes]
  rcases Nat.lt_or_ge i 32 with hi | hi
  · rcases Nat.lt_or_ge i lo with h1 | h1
    · simp [h1, hi, Nat.not_le.2 h1]
    · rcases Nat.lt_or_ge i (lo + w) with h2 | h2
      · have : i - lo < 32 := by omega
        have h3 : i - lo < w := by omega
        simp [h1, h2, hi, this, h3, Nat.not_lt.2 h1]
      · have h3 : ¬ i - lo < w := by omega
        have h4 : v.getLsbD (i - lo) = false := BitVec.getLsbD_of_ge _ _ (by omega)
        simp [h1, hi, h3, h4, Nat.not_lt.2 h2]
  · have h1 : old.getLsbD i = false := BitVec.getLsbD_of_ge _ _ hi
    have h2 : ¬ i < 32 := by omega
    have h3 : ¬ (lo ≤ i ∧ i < lo + w) := by omega
    simp [h1, h2, h3]

@[simp] theorem insertBits_full (old v : Word) : insertBits old 0 v = v := by
  apply BitVec.eq_of_getLsbD_eq
  intro i hi
  rw [insertBits_getLsbD _ _ _ _ (by omega)]
  simp [hi]

theorem extract_insertBits {w : Nat} (old : Word) (lo : Nat) (v : BitVec w) (h : lo + w ≤ 32) :
    (insertBits old lo v).extractLsb' lo w = v := by
  apply BitVec.eq_of_getLsbD_eq
  intro i hi
  simp only [BitVec.getLsbD_extractLsb', hi, decide_true, Bool.true_and]
  rw [insertBits_getLsbD _ _ _ _ h, if_pos ⟨by omega, by omega⟩, Nat.add_sub_cancel_left]

/-- A write of some bits leaves the bits of another part alone. -/
theorem extract_insertBits_disjoint {w u : Nat} (old : Word) (lo hi : Nat) (v : BitVec w) (h : lo + w ≤ 32)
    (d : hi + u ≤ lo ∨ lo + w ≤ hi) : (insertBits old lo v).extractLsb' hi u = old.extractLsb' hi u := by
  apply BitVec.eq_of_getLsbD_eq
  intro i hi'
  simp only [BitVec.getLsbD_extractLsb', hi', decide_true, Bool.true_and]
  rw [insertBits_getLsbD _ _ _ _ h, if_neg (by omega)]

theorem readPart_writePart {w : Nat} (p : Part) (v : BitVec w) (s : State) (h : p.lo + w ≤ 32) :
    readPart w p (writePart p v s) = v := by
  simp [readPart, extract_insertBits _ _ _ h]

theorem readPart_writePart_other {w u : Nat} (p q : Part) (v : BitVec w) (s : State) (h : q.reg ≠ p.reg) :
    readPart u q (writePart p v s) = readPart u q s := by
  simp [readPart, Gpr.get_set_other _ _ h]

theorem readPart_writePart_disjoint {w u : Nat} (p q : Part) (v : BitVec w) (s : State) (h : p.lo + w ≤ 32)
    (d : q.lo + u ≤ p.lo ∨ p.lo + w ≤ q.lo) : readPart u q (writePart p v s) = readPart u q s := by
  rcases Decidable.em (q.reg = p.reg) with e | e
  · simp only [readPart, writePart_gpr, e, Gpr.get_set_same]
    exact extract_insertBits_disjoint _ _ _ _ h d
  · exact readPart_writePart_other p q v s e

theorem readPart_congr {w : Nat} (p : Part) {s t : State} (h : t.gpr = s.gpr) : readPart w p t = readPart w p s := by
  simp [readPart, h]

theorem Reg8.part_fits (r : Reg8) : (Reg8.part r).lo + 8 ≤ 32 := by cases r <;> decide
theorem Reg16.part_fits (r : Reg16) : (Reg16.part r).lo + 16 ≤ 32 := by cases r <;> decide
theorem Reg32.part_fits (r : Reg32) : (Reg32.part r).lo + 32 ≤ 32 := by simp [Reg32.part]

@[simp] theorem readPart_reg32 (r : Reg32) (s : State) : readPart 32 (Reg32.part r) s = s.gpr.get r := by
  apply BitVec.eq_of_getLsbD_eq
  intro i hi
  simp [readPart, Reg32.part, hi]

@[simp] theorem writePart_reg32 (r : Reg32) (v : Word) (s : State) : writePart (Reg32.part r) v s = s.setReg r v := by
  simp [writePart, Reg32.part]

end Sys2Proof.Machine
end

