-- ==== Sys2Proof/Laws/Ops.lean ====
section
/-! SUPPORT. What each shared operation can do, said once: when it answers, what it answers, what it leaves alone. -/

namespace Sys2Proof.Machine

/-! ### Outcomes and sequences -/

@[simp] theorem outcome_next (x : Except Stop State) (t : State) : outcome x = .next t ↔ x = .ok t := by
  rcases x with (f | r) | s <;> simp [outcome]

@[simp] theorem outcome_fault (x : Except Stop State) (f : Fault) : outcome x = .fault f ↔ x = .error (.fault f) := by
  rcases x with (g | r) | s <;> simp [outcome]

@[simp] theorem outcome_refused (x : Except Stop State) (r : Refusal) :
    outcome x = .refused r ↔ x = .error (.refuse r) := by
  rcases x with (g | q) | s <;> simp [outcome]

@[simp] theorem outcome_ok (t : State) : outcome (.ok t) = .next t := rfl

@[simp] theorem ok_bind {α β : Type} (a : α) (f : α → Except Stop β) : ((Except.ok a : Except Stop α) >>= f) = f a := rfl

@[simp] theorem error_bind {α β : Type} (e : Stop) (f : α → Except Stop β) :
    ((Except.error e : Except Stop α) >>= f) = .error e := rfl

@[simp] theorem pure_eq_ok {α : Type} (a : α) : (pure a : Except Stop α) = .ok a := rfl

theorem ok_eq {α : Type} {a b : α} : (Except.ok a : Except Stop α) = .ok b ↔ b = a := by simp [eq_comm]

/-- A sequence answers exactly when its first part answers a value the second answers on. -/
theorem bind_ok {α β : Type} {x : Except Stop α} {f : α → Except Stop β} {b : β} :
    (x >>= f) = .ok b ↔ ∃ a, x = .ok a ∧ f a = .ok b := by
  rcases x with e | a <;> simp

/-- A sequence stops exactly where its first stopping part does. -/
theorem bind_error {α β : Type} {x : Except Stop α} {f : α → Except Stop β} {e : Stop} :
    (x >>= f) = .error e ↔ x = .error e ∨ ∃ a, x = .ok a ∧ f a = .error e := by
  rcases x with e' | a <;> simp

@[simp] theorem raise_ne_ok {α : Type} (k : Word → Fault) (s : State) (a : α) : raise k s ≠ .ok a := by simp [raise]
@[simp] theorem refuse_ne_ok {α : Type} (r : Refusal) (a : α) : (refuse r : Except Stop α) ≠ .ok a := by simp [refuse]

@[simp] theorem raise_eq_error {α : Type} (k : Word → Fault) (s : State) (e : Stop) :
    (raise k s : Except Stop α) = .error e ↔ e = .fault (k s.pc) := by simp [raise, eq_comm]

@[simp] theorem refuse_eq_error {α : Type} (r : Refusal) (e : Stop) :
    (refuse r : Except Stop α) = .error e ↔ e = .refuse r := by simp [refuse, eq_comm]

/-! ### Accesses -/

theorem checkAccess_read_ok (s : State) (a : Word) (n : Nat) (u : Unit) :
    checkAccess .read a n s = .ok u ↔ s.canRead a n := by
  unfold checkAccess State.canRead
  split
  · simp; omega
  next h =>
    split
    next h2 => simp at h2; simp [h2]
    next h2 =>
      rw [if_neg (by simp)]
      simp at h2
      simp [h2]; omega

theorem checkAccess_write_ok (s : State) (a : Word) (n : Nat) (u : Unit) :
    checkAccess .write a n s = .ok u ↔ s.canWrite a n := by
  unfold checkAccess State.canWrite
  split
  · simp; omega
  next h =>
    split
    next h2 => simp at h2; simp [h2]
    next h2 =>
      simp at h2
      split
      next h3 => simp [h3]
      next h3 => simp at h3; simp [h2, h3]; omega

/-- A check's three stops: past the top, not admitted, into the program text. -/
theorem checkAccess_error {k : Access} {a : Word} {n : Nat} {s : State} {e : Stop}
    (h : checkAccess k a n s = .error e) :
    (e = .refuse .accessPastTop ∧ addressSpace < a.toNat + n) ∨
      (e = .fault (.memoryAccess s.pc) ∧ a.toNat + n ≤ addressSpace ∧ memAdmit s a.toNat n k = false) ∨
      (e = .refuse .storeIntoText ∧ k = .write ∧ s.plat.text.meets a.toNat n = true) := by
  unfold checkAccess at h
  split at h
  · next hc => left; simp at h; exact ⟨h, hc⟩
  next hn =>
    split at h
    · next hc => right; left; simp at h hc; exact ⟨h, by omega, hc⟩
    · split at h
      · next hc => right; right; simp at h; exact ⟨h, hc⟩
      · cases h

theorem load_ok {w : Nat} {a : Word} {s : State} {v : BitVec w} :
    load w a s = .ok v ↔ s.canRead a (w / 8) ∧ v = BitVec.ofNat w (s.mem.readLE a.toNat (w / 8)) := by
  unfold load
  split
  next u h => rw [checkAccess_read_ok] at h; simp [h, eq_comm]
  next e h =>
    have : ¬ s.canRead a (w / 8) := by
      intro hc
      rw [(checkAccess_read_ok s a (w / 8) ()).2 hc] at h
      cases h
    simp [this]

theorem load_eq {w : Nat} {a : Word} {s : State} (h : s.canRead a (w / 8)) :
    load w a s = .ok (BitVec.ofNat w (s.mem.readLE a.toNat (w / 8))) := load_ok.2 ⟨h, rfl⟩

theorem load_error {w : Nat} {a : Word} {s : State} {e : Stop} :
    load w a s = .error e ↔ checkAccess .read a (w / 8) s = .error e := by
  unfold load
  split
  next h => simp [h]
  next h => simp [h]

theorem store_ok {w : Nat} {a : Word} {v : BitVec w} {s t : State} :
    store a v s = .ok t ↔
      s.canWrite a (w / 8) ∧ t = s.setMem (s.mem.writeLE a.toNat v.toNat (w / 8)) := by
  unfold store
  split
  next u h => rw [checkAccess_write_ok] at h; simp [h, eq_comm]
  next e h =>
    have : ¬ s.canWrite a (w / 8) := by
      intro hc
      rw [(checkAccess_write_ok s a (w / 8) ()).2 hc] at h
      cases h
    simp [this]

theorem store_eq {w : Nat} {a : Word} {v : BitVec w} {s : State} (h : s.canWrite a (w / 8)) :
    store a v s = .ok (s.setMem (s.mem.writeLE a.toNat v.toNat (w / 8))) := store_ok.2 ⟨h, rfl⟩

theorem store_error {w : Nat} {a : Word} {v : BitVec w} {s : State} {e : Stop} :
    store a v s = .error e ↔ checkAccess .write a (w / 8) s = .error e := by
  unfold store
  split
  next h => simp [h]
  next h => simp [h]

/-- What an access is admitted by: the launch parameters alone. -/
theorem canRead_congr {s t : State} (h : t.plat = s.plat) (a : Word) (n : Nat) : t.canRead a n ↔ s.canRead a n := by
  simp [State.canRead, memAdmit, h]

theorem canWrite_congr {s t : State} (h : t.plat = s.plat) (a : Word) (n : Nat) :
    t.canWrite a n ↔ s.canWrite a n := by
  simp [State.canWrite, memAdmit, h]

theorem checkAccess_congr {s t : State} (hp : t.plat = s.plat) (hc : t.pc = s.pc) (k : Access) (a : Word) (n : Nat) :
    checkAccess k a n t = checkAccess k a n s := by
  cases k <;> simp [checkAccess, memAdmit, raise, hp, hc]

/-! ### Operands -/

theorem readLoc_ok {w : Nat} {l : Loc} {s : State} {v : BitVec w} (h : readLoc w l s = .ok v) : l.readable w s := by
  cases l with
  | part p => trivial
  | mem a => exact (load_ok.1 h).1

theorem readLoc_error {w : Nat} {l : Loc} {s : State} {e : Stop} (h : readLoc w l s = .error e) :
    ∃ a, l = .mem a ∧ checkAccess .read a (w / 8) s = .error e := by
  cases l with
  | part p => cases h
  | mem a => exact ⟨a, rfl, load_error.1 h⟩

theorem writeLoc_error {w : Nat} {l : Loc} {v : BitVec w} {s : State} {e : Stop} (h : writeLoc l v s = .error e) :
    ∃ a, l = .mem a ∧ checkAccess .write a (w / 8) s = .error e := by
  cases l with
  | part p => cases h
  | mem a => exact ⟨a, rfl, store_error.1 h⟩

/-- Everything a write to an operand can do. -/
theorem writeLoc_cases {w : Nat} {l : Loc} {v : BitVec w} {s t : State} (h : writeLoc l v s = .ok t) :
    (∃ p, l = .part p ∧ t = writePart p v s) ∨
      (∃ a, l = .mem a ∧ s.canWrite a (w / 8) ∧ t = s.setMem (s.mem.writeLE a.toNat v.toNat (w / 8))) := by
  cases l with
  | part p => exact .inl ⟨p, rfl, by simpa [writeLoc, eq_comm] using h⟩
  | mem a => exact .inr ⟨a, rfl, store_ok.1 h⟩

/-- A writable operand is written. -/
theorem writeLoc_completes {w : Nat} (l : Loc) (v : BitVec w) (s : State) (h : l.writable w s) :
    ∃ t, writeLoc l v s = .ok t := by
  cases l with
  | part p => exact ⟨_, rfl⟩
  | mem a => exact ⟨_, store_eq h⟩

/-- The address of a memory operand depends on the general registers and the segment bases. -/
theorem operandAddress_congr {s t : State} (hg : t.gpr = s.gpr) (hp : t.plat = s.plat) (m : MemOp) :
    operandAddress t m = operandAddress s m := by
  rcases m with ⟨seg, base, index, disp⟩
  rcases base with _ | b <;> rcases index with _ | ⟨i, k⟩ <;>
    simp [operandAddress, State.linear, effectiveAddress, baseValue, indexValue, hg, hp]

theorem locate_congr {s t : State} (hg : t.gpr = s.gpr) (hp : t.plat = s.plat) (x : RM Part) :
    locate t x = locate s x := by
  cases x with
  | reg p => rfl
  | mem m => simp [locate, operandAddress_congr hg hp]

/-! ### The stack (R59) -/

theorem push_ok {w : Nat} {v : BitVec w} {s t : State} :
    push v s = .ok t ↔
      s.canWrite (pushAddress w s) (w / 8) ∧
        t = (s.setMem (s.mem.writeLE (pushAddress w s).toNat v.toNat (w / 8))).setReg .esp (s.gpr.esp - itemStep w) := by
  simp only [push, bind_ok, store_ok, pure_eq_ok, Except.ok.injEq]
  constructor
  · rintro ⟨u, ⟨hc, rfl⟩, rfl⟩; exact ⟨hc, rfl⟩
  · rintro ⟨hc, rfl⟩; exact ⟨_, ⟨hc, rfl⟩, rfl⟩

theorem push_error {w : Nat} {v : BitVec w} {s : State} {e : Stop} :
    push v s = .error e ↔ checkAccess .write (pushAddress w s) (w / 8) s = .error e := by
  simp [push, bind_error, store_error]

/-! ### Segment registers (R100, R273) -/

theorem loadSegment_ok {r : SReg} {sel : Half} {s t : State} :
    loadSegment r sel s = .ok t ↔ selectorLoadable s r sel = true ∧ t = s.setSeg r sel := by
  unfold loadSegment
  split
  next h => simp [h, eq_comm]
  next h => simp [h]

theorem loadSegment_error {r : SReg} {sel : Half} {s : State} {e : Stop} :
    loadSegment r sel s = .error e ↔ selectorLoadable s r sel = false ∧ e = .fault (.segmentLoad sel s.pc) := by
  unfold loadSegment
  split
  next h => simp [h]
  next h => simp [h]

/-! ### Ports (R60, R271) -/

theorem requirePort_ok {p : Half} {n : Nat} {s : State} {u : Unit} :
    requirePort p n s = .ok u ↔ ioPermitted s p n = true := by
  unfold requirePort
  split
  next h => simp [h]
  next h => simp [h]

theorem requirePort_error {p : Half} {n : Nat} {s : State} {e : Stop} :
    requirePort p n s = .error e ↔ ioPermitted s p n = false ∧ e = .fault (.ioPermission p s.pc) := by
  unfold requirePort
  split
  next h => simp [h]
  next h => simp [h]

theorem portRead_ok {w : Nat} {p : Half} {s : State} {r : BitVec w × State} :
    portRead w p s = .ok r ↔ portInSpace p (w / 8) = true ∧ r = (portAnswer w p s, s.afterPortRead w p) := by
  unfold portRead
  split
  next h => simp [h, eq_comm]
  next h => simp [h]

theorem portRead_error {w : Nat} {p : Half} {s : State} {e : Stop} :
    portRead w p s = .error e ↔ portInSpace p (w / 8) = false ∧ e = .refuse .portPastTop := by
  unfold portRead
  split
  next h => simp [h]
  next h => simp [h]

theorem portWrite_ok {w : Nat} {p : Half} {v : BitVec w} {s t : State} :
    portWrite p v s = .ok t ↔ portInSpace p (w / 8) = true ∧ t = s.logged (portEvent .write p v) := by
  unfold portWrite
  split
  next h => simp [h, eq_comm]
  next h => simp [h]

theorem portWrite_error {w : Nat} {p : Half} {v : BitVec w} {s : State} {e : Stop} :
    portWrite p v s = .error e ↔ portInSpace p (w / 8) = false ∧ e = .refuse .portPastTop := by
  unfold portWrite
  split
  next h => simp [h]
  next h => simp [h]

/-! ### Fetching (R292) -/

/-- What is fetched is what the bytes at `pc` decode to. -/
theorem fetch_ok {s : State} {i : Instr} {n : Nat} :
    fetch s = .ok (i, n) ↔ decode (fetchBytes s) = .ok (i, n) ∧ s.pc.toNat + n ≤ addressSpace := by
  unfold fetch
  split
  next j k h =>
    split
    next hp => simp [h]; omega
    next hp =>
      simp only [h, Except.ok.injEq, Prod.mk.injEq]
      constructor
      · rintro ⟨rfl, rfl⟩; exact ⟨⟨rfl, rfl⟩, by omega⟩
      · rintro ⟨⟨rfl, rfl⟩, -⟩; exact ⟨rfl, rfl⟩
  next h => simp [h]
  next e _ h => simp [h]

end Sys2Proof.Machine
end

