-- ==== Sys2Proof/Laws/Families.lean ====
section
/-! SUPPORT. For each operation the meanings are written over, one lemma that says everything it does when it answers
a next state. Provers cite these and unfold nothing. -/

namespace Sys2Proof.Machine

/-! ### Arithmetic, logic, shifts -/

theorem writeBack_ok {w : Nat} {e : Effect w} {l : Loc} {s t : State} :
    writeBack e l s = .ok t ↔
      ∃ u, writeLoc l e.result s = .ok u ∧ t = ((u.setFlags e.flags).drew e.used).advance := by
  simp only [writeBack, bind_ok, pure_eq_ok, ok_eq]

theorem update_ok {w : Nat} {op : BitVec w → BitVec w → State → Effect w} {x : Src w × RM Part} {s t : State} :
    update op x s = .ok t ↔
      ∃ v d, readSrc x.1 s = .ok v ∧ readRM w x.2 s = .ok d ∧ writeBack (op d v s) (locate s x.2) s = .ok t := by
  simp [update, bind_ok]

theorem compare_ok {w : Nat} {op : BitVec w → BitVec w → State → Effect w} {x : Src w × RM Part} {s t : State} :
    compare op x s = .ok t ↔
      ∃ v d, readSrc x.1 s = .ok v ∧ readRM w x.2 s = .ok d ∧
        t = ((s.setFlags (op d v s).flags).drew (op d v s).used).advance := by
  simp only [compare, bind_ok, pure_eq_ok, ok_eq, exists_and_left]

theorem modify_ok {w : Nat} {op : BitVec w → State → Effect w} {x : RM Part} {s t : State} :
    modify op x s = .ok t ↔ ∃ d, readRM w x s = .ok d ∧ writeBack (op d s) (locate s x) s = .ok t := by
  simp [modify, bind_ok]

theorem shift_ok {w : Nat} {op : BitVec w → Nat → State → Effect w} {x : Count × RM Part} {s t : State} :
    shift op x s = .ok t ↔
      ∃ d, readRM w x.2 s = .ok d ∧
        ((countValue s x.1 = 0 ∧ t = s.advance) ∨
          (countValue s x.1 ≠ 0 ∧ writeBack (op d (countValue s x.1) s) (locate s x.2) s = .ok t)) := by
  simp only [shift, bind_ok]
  constructor
  · rintro ⟨d, hd, h⟩
    split at h
    next hc => exact ⟨d, hd, .inl ⟨hc, by simpa [eq_comm] using h⟩⟩
    next hc => exact ⟨d, hd, .inr ⟨hc, h⟩⟩
  · rintro ⟨d, hd, ⟨hc, rfl⟩ | ⟨hc, h⟩⟩
    · exact ⟨d, hd, by simp [hc]⟩
    · exact ⟨d, hd, by simpa [hc] using h⟩

theorem doubleShift_ok {w : Nat} {op : BitVec w → BitVec w → Nat → State → Effect w} {x : Count × Part × RM Part}
    {s t : State} :
    doubleShift op x s = .ok t ↔
      ∃ d, readRM w x.2.2 s = .ok d ∧
        ((countValue s x.1 = 0 ∧ t = s.advance) ∨
          (countValue s x.1 ≠ 0 ∧
            writeBack (op d (readPart w x.2.1 s) (countValue s x.1) s) (locate s x.2.2) s = .ok t)) := by
  simp only [doubleShift, bind_ok]
  constructor
  · rintro ⟨d, hd, h⟩
    split at h
    next hc => exact ⟨d, hd, .inl ⟨hc, by simpa [eq_comm] using h⟩⟩
    next hc => exact ⟨d, hd, .inr ⟨hc, h⟩⟩
  · rintro ⟨d, hd, ⟨hc, rfl⟩ | ⟨hc, h⟩⟩
    · exact ⟨d, hd, by simp [hc]⟩
    · exact ⟨d, hd, by simpa [hc] using h⟩

theorem checkBounds_ok {w : Nat} {i : Part} {m : MemOp} {s t : State} :
    checkBounds w i m s = .ok t ↔
      ∃ lo hi, load w (operandAddress s m) s = .ok lo ∧ load w (upperBoundAddress w m s) s = .ok hi ∧
        lo.toInt ≤ (readPart w i s).toInt ∧ (readPart w i s).toInt ≤ hi.toInt ∧ t = s.advance := by
  simp only [checkBounds, bind_ok]
  constructor
  · rintro ⟨lo, hlo, hi, hhi, h⟩
    split at h
    next hc => simp at h
    next hc => exact ⟨lo, hi, hlo, hhi, by omega, by omega, by simpa [eq_comm] using h⟩
  · rintro ⟨lo, hi, hlo, hhi, h1, h2, rfl⟩
    exact ⟨lo, hlo, hi, hhi, by rw [if_neg (by omega)]; rfl⟩

/-! ### Multiply and divide -/

theorem multiply_ok {w : Nat} {x : RM Part} {s t : State} :
    multiply w x s = .ok t ↔
      ∃ v, readRM w x s = .ok v ∧
        t = multiplied (decide ((readPart w acc s).toNat * v.toNat / 2 ^ w ≠ 0)) s
          (writePair (BitVec.ofNat w ((readPart w acc s).toNat * v.toNat / 2 ^ w))
            (BitVec.ofNat w ((readPart w acc s).toNat * v.toNat)) s) := by
  simp only [multiply, bind_ok, pure_eq_ok, ok_eq]

theorem signedMultiply_ok {w : Nat} {x : RM Part} {s t : State} :
    signedMultiply w x s = .ok t ↔
      ∃ v, readRM w x s = .ok v ∧
        t = multiplied (signedWide w ((readPart w acc s).toInt * v.toInt)) s
          (writePair (BitVec.ofInt w ((readPart w acc s).toInt * v.toInt / 2 ^ w))
            (BitVec.ofInt w ((readPart w acc s).toInt * v.toInt)) s) := by
  simp only [signedMultiply, bind_ok, pure_eq_ok, ok_eq]

theorem signedMultiplyInto_ok {w : Nat} {a : BitVec w} {x : RM Part} {dst : Part} {s t : State} :
    signedMultiplyInto a x dst s = .ok t ↔
      ∃ v, readRM w x s = .ok v ∧
        t = multiplied (signedWide w (a.toInt * v.toInt)) s (writePart dst (BitVec.ofInt w (a.toInt * v.toInt)) s) := by
  simp only [signedMultiplyInto, bind_ok, pure_eq_ok, ok_eq]

theorem divide_ok {w : Nat} {x : RM Part} {s t : State} :
    divide w x s = .ok t ↔
      ∃ v, readRM w x s = .ok v ∧ v.toNat ≠ 0 ∧ readPair w s / v.toNat < 2 ^ w ∧
        t = (((writePair (BitVec.ofNat w (readPair w s % v.toNat)) (BitVec.ofNat w (readPair w s / v.toNat)) s).setFlags
          (divideFlags s)).drew 6).advance := by
  simp only [divide, bind_ok]
  constructor
  · rintro ⟨v, hv, h⟩
    split at h
    next hc => simp at h
    next hc =>
      split at h
      next hq => simp at h
      next hq => exact ⟨v, hv, hc, by omega, by simpa [eq_comm] using h⟩
  · rintro ⟨v, hv, h1, h2, rfl⟩
    exact ⟨v, hv, by rw [if_neg h1, if_neg (by omega)]; rfl⟩

/-! ### Segment register instructions -/

theorem requireWhole_ok {a : Word} {n : Nat} {u : Unit} : requireWhole a n = .ok u ↔ a.toNat + n ≤ addressSpace := by
  unfold requireWhole
  split
  next h => simp; omega
  next h => simp; omega

theorem loadPointer_ok {w : Nat} {r : SReg} {m : MemOp} {dst : Part} {s t : State} :
    loadPointer w r m dst s = .ok t ↔
      ∃ off sel, (operandAddress s m).toNat + pointerBytes w ≤ addressSpace ∧
        load w (operandAddress s m) s = .ok off ∧ load 16 (operandAddress s m + itemStep w) s = .ok sel ∧
        selectorLoadable s r sel = true ∧ t = (writePart dst off (s.setSeg r sel)).advanceAfterLoad r := by
  simp only [loadPointer, bind_ok, requireWhole_ok, loadSegment_ok, pure_eq_ok, Except.ok.injEq]
  constructor
  · rintro ⟨-, h1, off, h2, sel, h3, u, ⟨h4, rfl⟩, rfl⟩; exact ⟨off, sel, h1, h2, h3, h4, rfl⟩
  · rintro ⟨off, sel, h1, h2, h3, h4, rfl⟩; exact ⟨(), h1, off, h2, sel, h3, _, ⟨h4, rfl⟩, rfl⟩

theorem popInto_ok {w : Nat} {x : RM Part} {s t : State} :
    popInto w x s = .ok t ↔
      ∃ v u, top w s = .ok v ∧ writeLoc (locate (s.popped w) x) v (s.popped w) = .ok u ∧ t = u.advance := by
  simp only [popInto, bind_ok, pure_eq_ok, Except.ok.injEq]
  constructor
  · rintro ⟨v, h1, u, h2, rfl⟩; exact ⟨v, u, h1, h2, rfl⟩
  · rintro ⟨v, u, h1, h2, rfl⟩; exact ⟨v, h1, u, h2, rfl⟩

theorem popSegment_ok {r : SReg} {s t : State} :
    popSegment r s = .ok t ↔
      ∃ v, top 32 s = .ok v ∧ selectorLoadable s r (v.setWidth 16) = true ∧
        t = ((s.setSeg r (v.setWidth 16)).popped 32).advanceAfterLoad r := by
  simp only [popSegment, bind_ok, loadSegment_ok, pure_eq_ok, Except.ok.injEq]
  constructor
  · rintro ⟨v, h1, u, ⟨h2, rfl⟩, rfl⟩; exact ⟨v, h1, h2, rfl⟩
  · rintro ⟨v, h1, h2, rfl⟩; exact ⟨v, h1, _, ⟨h2, rfl⟩, rfl⟩

theorem pushFrom_ok {w : Nat} {x : Src w} {s t : State} :
    pushFrom x s = .ok t ↔ ∃ v u, readSrc x s = .ok v ∧ push v s = .ok u ∧ t = u.advance := by
  simp only [pushFrom, bind_ok, pure_eq_ok, Except.ok.injEq]
  constructor
  · rintro ⟨v, h1, u, h2, rfl⟩; exact ⟨v, u, h1, h2, rfl⟩
  · rintro ⟨v, u, h1, h2, rfl⟩; exact ⟨v, h1, u, h2, rfl⟩

theorem pushSegment_ok {r : SReg} {s t : State} :
    pushSegment r s = .ok t ↔ ∃ u, push (segmentImage r s) s = .ok u ∧ t = (u.drew 1).advance := by
  simp only [pushSegment, bind_ok, pure_eq_ok, ok_eq]

/-! ### Flag instructions -/

theorem loadFlagByte_ok {s t : State} :
    loadFlagByte s = .ok t ↔ t = ((writePart partAH (lahfByte s) s).drew 3).advance := by
  simp [loadFlagByte, eq_comm]

theorem changeFlags_ok {f : Flags} {s t : State} : changeFlags f s = .ok t ↔ t = (s.setFlags f).advance := by
  simp [changeFlags, eq_comm]

theorem popFlags_ok {w : Nat} {s t : State} :
    popFlags w s = .ok t ↔
      ∃ v, top w s = .ok v ∧ v.getLsbD 8 = false ∧ v.getLsbD 18 = false ∧
        t = ((s.popped w).setFlags (popfFlags v s.cpl s.flags)).advance := by
  simp only [popFlags, bind_ok]
  constructor
  · rintro ⟨v, hv, h⟩
    split at h
    next hc => simp at h
    next hc =>
      split at h
      next hq => simp at h
      next hq => exact ⟨v, hv, by simpa using hc, by simpa using hq, by simpa [eq_comm] using h⟩
  · rintro ⟨v, hv, h1, h2, rfl⟩
    exact ⟨v, hv, by simp [h1, h2]⟩

theorem pushFlags_ok {w : Nat} {s t : State} :
    pushFlags w s = .ok t ↔ ∃ u, push ((flagImage s).setWidth w) s = .ok u ∧ t = (u.drew 5).advance := by
  simp only [pushFlags, bind_ok, pure_eq_ok, ok_eq]

theorem requireIopl_ok {s : State} {u : Unit} : requireIopl s = .ok u ↔ s.cpl.toNat ≤ s.flags.iopl.toNat := by
  unfold requireIopl
  split
  next h => simp [h]
  next h => simp [h]

theorem clearInterrupt_ok {s t : State} :
    clearInterrupt s = .ok t ↔
      s.cpl.toNat ≤ s.flags.iopl.toNat ∧ t = (s.setFlags { s.flags with intf := false }).advance := by
  simp only [clearInterrupt, bind_ok, requireIopl_ok, pure_eq_ok, ok_eq, exists_const]

theorem setInterrupt_ok {s t : State} :
    setInterrupt s = .ok t ↔
      s.cpl.toNat ≤ s.flags.iopl.toNat ∧
        t = (s.setFlags { s.flags with intf := true }).advance.setShadow true := by
  simp only [setInterrupt, bind_ok, requireIopl_ok, pure_eq_ok, ok_eq, exists_const]

/-! ### I/O instructions -/

theorem portIn_ok {w : Nat} {f : PortForm} {s t : State} :
    portIn w f s = .ok t ↔
      ioPermitted s (portNumber s f) (w / 8) = true ∧ portInSpace (portNumber s f) (w / 8) = true ∧
        t = (writePart acc (portAnswer w (portNumber s f) s) (s.afterPortRead w (portNumber s f))).advance := by
  simp only [portIn, bind_ok, requirePort_ok, portRead_ok, pure_eq_ok, Except.ok.injEq]
  constructor
  · rintro ⟨-, h1, r, ⟨h2, rfl⟩, rfl⟩; exact ⟨h1, h2, rfl⟩
  · rintro ⟨h1, h2, rfl⟩; exact ⟨(), h1, _, ⟨h2, rfl⟩, rfl⟩

theorem portOut_ok {w : Nat} {f : PortForm} {s t : State} :
    portOut w f s = .ok t ↔
      ioPermitted s (portNumber s f) (w / 8) = true ∧ portInSpace (portNumber s f) (w / 8) = true ∧
        t = (s.logged (portEvent .write (portNumber s f) (readPart w acc s))).advance := by
  simp only [portOut, bind_ok, requirePort_ok, portWrite_ok, pure_eq_ok, Except.ok.injEq]
  constructor
  · rintro ⟨-, h1, r, ⟨h2, rfl⟩, rfl⟩; exact ⟨h1, h2, rfl⟩
  · rintro ⟨h1, h2, rfl⟩; exact ⟨(), h1, _, ⟨h2, rfl⟩, rfl⟩

theorem insOnce_ok {w : Nat} {s t : State} :
    insOnce w s = .ok t ↔
      ioPermitted s (readPart 16 partDX s) (w / 8) = true ∧ s.canWrite (insAddress s) (w / 8) ∧
        portInSpace (readPart 16 partDX s) (w / 8) = true ∧
        t = ((s.afterPortRead w (readPart 16 partDX s)).setMem (s.mem.writeLE (insAddress s).toNat
          (portAnswer w (readPart 16 partDX s) s).toNat (w / 8))).setReg .edi (indexAfter w s.flags.df s.gpr.edi) := by
  simp only [insOnce, bind_ok, requirePort_ok, checkAccess_write_ok, portRead_ok, store_ok, pure_eq_ok,
    Except.ok.injEq]
  constructor
  · rintro ⟨-, h1, -, h2, r, ⟨h3, rfl⟩, u, ⟨h4, rfl⟩, rfl⟩; exact ⟨h1, h2, h3, rfl⟩
  · rintro ⟨h1, h2, h3, rfl⟩; exact ⟨(), h1, (), h2, _, ⟨h3, rfl⟩, _, ⟨(canWrite_congr rfl _ _).2 h2, rfl⟩, rfl⟩

theorem outsSegment_ok {g : Option SReg} {s : State} {r : SReg} :
    outsSegment g s = .ok r ↔ s.plat.segBase.ds = s.plat.segBase.es ∧ r = g.getD .ds := by
  unfold outsSegment
  split
  next h => simp [h, eq_comm]
  next h => simp [h]

theorem outsOnce_ok {w : Nat} {g : Option SReg} {s t : State} :
    outsOnce w g s = .ok t ↔
      ∃ r v, outsSegment g s = .ok r ∧ ioPermitted s (readPart 16 partDX s) (w / 8) = true ∧
        load w (s.linear r s.gpr.esi) s = .ok v ∧ portInSpace (readPart 16 partDX s) (w / 8) = true ∧
        t = (s.logged (portEvent .write (readPart 16 partDX s) v)).setReg .esi
          (indexAfter w s.flags.df s.gpr.esi) := by
  simp only [outsOnce, bind_ok, requirePort_ok, portWrite_ok, pure_eq_ok, Except.ok.injEq]
  constructor
  · rintro ⟨r, h0, -, h1, v, h2, u, ⟨h3, rfl⟩, rfl⟩; exact ⟨r, v, h0, h1, h2, h3, rfl⟩
  · rintro ⟨r, v, h0, h1, h2, h3, rfl⟩; exact ⟨r, h0, (), h1, v, h2, _, ⟨h3, rfl⟩, rfl⟩

theorem single_ok {once : State → Except Stop State} {s t : State} :
    single once s = .ok t ↔ ∃ u, once s = .ok u ∧ t = u.advance := by
  simp only [single, bind_ok, pure_eq_ok, ok_eq]

theorem repeated_ok {once : State → Except Stop State} {s t : State} :
    repeated once s = .ok t ↔
      (s.gpr.ecx = 0#32 ∧ t = s.advance) ∨ (s.gpr.ecx ≠ 0#32 ∧ ∃ u, once s = .ok u ∧ t = u.countDown) := by
  unfold repeated
  split
  next h => simp [h, eq_comm]
  next h => simp only [h, false_and, false_or, ne_eq, not_false_eq_true, true_and, bind_ok, pure_eq_ok, ok_eq]

/-- What the end of an iteration does. -/
theorem countDown_cases (s : State) :
    (s.gpr.ecx = 1#32 ∧ s.countDown = (s.setReg .ecx 0#32).advance) ∨
      (s.gpr.ecx ≠ 1#32 ∧ s.countDown = s.setReg .ecx (s.gpr.ecx - 1#32)) := by
  have e : (s.setReg .ecx (s.gpr.ecx - 1#32)).gpr.ecx = s.gpr.ecx - 1#32 := rfl
  simp only [State.countDown, e]
  rcases Decidable.em (s.gpr.ecx = 1#32) with h | h
  · left; simp [h]
  · right
    have : s.gpr.ecx - 1#32 ≠ 0#32 := by
      intro h0
      apply h
      have := congrArg (· + 1#32) h0
      simpa [BitVec.sub_add_cancel] using this
    simp [h, this]

/-! ### Jumps -/

theorem jump_ok {f : JumpForm} {s t : State} : jump f s = .ok t ↔ t = s.jumpTo (s.pcNext + displacement f) := by
  simp [jump, eq_comm]

theorem jumpIf_ok {c : Cond} {f : JumpForm} {s t : State} :
    Machine.jumpIf c f s = .ok t ↔
      t = if c.holds s.flags then s.jumpTo (s.pcNext + displacement f) else s.advance := by
  unfold Machine.jumpIf
  split <;> simp [jump, eq_comm]

end Sys2Proof.Machine
end

