-- ==== Sys2Proof/Laws/PerInstr.lean ====
section
/-! SUPPORT. A family of statements about every instruction as syntax: its words fit the longest instruction, and its
first spelling has its words. -/

namespace Sys2Proof.Laws.Spelling

/-- At most `maxInstrBytes` bytes; the first spelling is a first spelling, well-formed, with the same words. -/
def Statement (i : Instr) : Prop :=
  (encode i).length ≤ maxInstrBytes ∧ i.canon.canon = i.canon ∧ (i.wf = true → i.canon.wf = true) ∧
    encode i.canon = encode i

/-! ### The longest words of each shape -/

theorem prefix_le (sz : OpSize) : sz.prefixBytes.length ≤ 1 := by cases sz <;> decide

theorem rm_le {sz : OpSize} {ops : List Byte} {imm : List Byte} (g : BitVec 3) (m : RM (BitVec 3))
    (h : sz.prefixBytes.length + ops.length + imm.length ≤ 5) : (encRM sz ops g m imm).length ≤ 12 :=
  (encRM_length_le sz ops g m imm).trans (by omega)

theorem plain_le {sz : OpSize} {ops imm : List Byte} (h : sz.prefixBytes.length + ops.length + imm.length ≤ 5) :
    (encPlain sz ops imm).length ≤ 12 := by rw [encPlain_length]; omega

theorem alu_le {ρ : Type} {n : Nat} {sz : OpSize} (code : ρ → BitVec 3) (k : BitVec 3) (f : AluForm ρ n)
    (h : sz.prefixBytes.length + n / 8 ≤ 4) : (encAlu sz code k f).length ≤ 12 := by
  have := prefix_le sz
  cases f
  case immAcc => exact plain_le (by simp; omega)
  all_goals exact rm_le _ _ (by simp; omega)

theorem test_le {ρ : Type} {n : Nat} {sz : OpSize} (code : ρ → BitVec 3) (f : TestForm ρ n)
    (h : sz.prefixBytes.length + n / 8 ≤ 4) : (encTest sz code f).length ≤ 12 := by
  have := prefix_le sz
  cases f
  case immAcc => exact plain_le (by simp; omega)
  all_goals exact rm_le _ _ (by simp; omega)

theorem inc_le {ρ : Type} {sz : OpSize} (code : ρ → BitVec 3) (k : BitVec 3) (f : IncForm ρ) :
    (encInc sz code k f).length ≤ 12 := by
  cases f
  case reg => exact plain_le (by cases sz <;> simp [OpSize.prefixBytes])
  all_goals exact rm_le _ _ (by cases sz <;> simp [OpSize.prefixBytes])

theorem shift_le {ρ : Type} {sz : OpSize} (code : ρ → BitVec 3) (k : BitVec 3) (f : ShiftForm ρ) :
    (encShift sz code k f).length ≤ 12 := by
  cases f <;> exact rm_le _ _ (by cases sz <;> simp [OpSize.prefixBytes])

theorem dshift_le {ρ : Type} {sz : OpSize} (code : ρ → BitVec 3) (op : Byte) (f : DShiftForm ρ) :
    (encDShift sz code op f).length ≤ 12 := by
  cases f <;> exact rm_le _ _ (by cases sz <;> simp [OpSize.prefixBytes])

theorem imul_le {ρ : Type} {n : Nat} {sz : OpSize} (code : ρ → BitVec 3) (f : ImulForm ρ n)
    (h : sz.prefixBytes.length + n / 8 ≤ 4) : (encImul sz code f).length ≤ 12 := by
  have := prefix_le sz
  cases f <;> exact rm_le _ _ (by simp; omega)

theorem group3_le {ρ : Type} {sz : OpSize} (code : ρ → BitVec 3) (k : BitVec 3) (m : RM ρ) :
    (encGroup3 sz code k m).length ≤ 12 := rm_le _ _ (by cases sz <;> simp [OpSize.prefixBytes])

theorem one_le {ρ : Type} {sz : OpSize} {b : Byte} (code : ρ → BitVec 3) (k : BitVec 3) (m : RM ρ) :
    (encRM sz [b] k (m.map code) []).length ≤ 12 := rm_le _ _ (by cases sz <;> simp [OpSize.prefixBytes])

theorem memReg_le {ρ : Type} {sz : OpSize} {ops : List Byte} (code : ρ → BitVec 3) (m : MemOp) (r : ρ)
    (h : ops.length ≤ 2) : (encMemReg sz ops code m r).length ≤ 12 :=
  rm_le _ _ (by cases sz <;> simp [OpSize.prefixBytes] <;> omega)

theorem popSeg_le (r : SReg) : (encPopSeg r).length ≤ 12 := by cases r <;> decide
theorem pushSeg_le (r : SReg) : (encPushSeg r).length ≤ 12 := by cases r <;> decide

theorem pop_le (f : PopForm) : (encPop f).length ≤ 12 := by
  cases f
  · exact plain_le (by simp [OpSize.prefixBytes])
  · exact rm_le _ _ (by simp [OpSize.prefixBytes])

theorem popLong_le (f : PopLongForm) : (encPopLong f).length ≤ 12 := by
  cases f
  · exact plain_le (by simp [OpSize.prefixBytes])
  · exact rm_le _ _ (by simp [OpSize.prefixBytes])
  · exact popSeg_le _

theorem push_le (f : PushForm) : (encPush f).length ≤ 12 := by
  cases f
  case rm => exact rm_le _ _ (by simp [OpSize.prefixBytes])
  all_goals exact plain_le (by simp [OpSize.prefixBytes])

theorem pushLong_le (f : PushLongForm) : (encPushLong f).length ≤ 12 := by
  cases f
  case rm => exact rm_le _ _ (by simp [OpSize.prefixBytes])
  case sreg => exact pushSeg_le _
  all_goals exact plain_le (by simp [OpSize.prefixBytes])

theorem port_le {sz : OpSize} (op : Byte) (f : PortForm) : (encPort sz op f).length ≤ 12 := by
  cases f <;> exact plain_le (by cases sz <;> simp [OpSize.prefixBytes])

theorem jcc_le (t : BitVec 4) (f : JumpForm) : (encJcc t f).length ≤ 12 := by cases f <;> simp [encJcc]
theorem jmp_le (f : JumpForm) : (encJmp f).length ≤ 12 := by cases f <;> simp [encJmp]

theorem test_canon {ρ : Type} {n : Nat} (sz : OpSize) (code : ρ → BitVec 3) (f : TestForm ρ n) :
    encTest sz code f.canon = encTest sz code f := by cases f <;> rfl

theorem test_canon_canon {ρ : Type} {n : Nat} (f : TestForm ρ n) : f.canon.canon = f.canon := by cases f <;> rfl

theorem test_canon_wf {ρ : Type} {n : Nat} (f : TestForm ρ n) (h : f.wf = true) : f.canon.wf = true := by
  cases f <;> exact h

/-! ### The instructions -/

theorem ldsw (src : MemOp) (dst : Reg16) : Statement (.ldsw src dst) := ⟨memReg_le _ _ _ (by decide), rfl, id, rfl⟩

theorem ldsl (src : MemOp) (dst : Reg32) : Statement (.ldsl src dst) := ⟨memReg_le _ _ _ (by decide), rfl, id, rfl⟩

theorem lesw (src : MemOp) (dst : Reg16) : Statement (.lesw src dst) := ⟨memReg_le _ _ _ (by decide), rfl, id, rfl⟩

theorem lesl (src : MemOp) (dst : Reg32) : Statement (.lesl src dst) := ⟨memReg_le _ _ _ (by decide), rfl, id, rfl⟩

theorem lfsw (src : MemOp) (dst : Reg16) : Statement (.lfsw src dst) := ⟨memReg_le _ _ _ (by decide), rfl, id, rfl⟩

theorem lfsl (src : MemOp) (dst : Reg32) : Statement (.lfsl src dst) := ⟨memReg_le _ _ _ (by decide), rfl, id, rfl⟩

theorem lgsw (src : MemOp) (dst : Reg16) : Statement (.lgsw src dst) := ⟨memReg_le _ _ _ (by decide), rfl, id, rfl⟩

theorem lgsl (src : MemOp) (dst : Reg32) : Statement (.lgsl src dst) := ⟨memReg_le _ _ _ (by decide), rfl, id, rfl⟩

theorem lssw (src : MemOp) (dst : Reg16) : Statement (.lssw src dst) := ⟨memReg_le _ _ _ (by decide), rfl, id, rfl⟩

theorem lssl (src : MemOp) (dst : Reg32) : Statement (.lssl src dst) := ⟨memReg_le _ _ _ (by decide), rfl, id, rfl⟩

theorem popw (f : PopForm) : Statement (.popw f) := ⟨pop_le _, rfl, id, rfl⟩

theorem popl (f : PopLongForm) : Statement (.popl f) := ⟨popLong_le _, rfl, id, rfl⟩

theorem pop (dst : SReg) : Statement (.pop dst) := ⟨popSeg_le _, rfl, id, rfl⟩

theorem pushw (f : PushForm) : Statement (.pushw f) := ⟨push_le _, rfl, id, rfl⟩

theorem pushl (f : PushLongForm) : Statement (.pushl f) := ⟨pushLong_le _, rfl, id, rfl⟩

theorem push (src : SReg) : Statement (.push src) := ⟨pushSeg_le _, rfl, id, rfl⟩

theorem inb (port : PortForm) : Statement (.inb port) := ⟨port_le _ _, rfl, id, rfl⟩

theorem inw (port : PortForm) : Statement (.inw port) := ⟨port_le _ _, rfl, id, rfl⟩

theorem inl (port : PortForm) : Statement (.inl port) := ⟨port_le _ _, rfl, id, rfl⟩

theorem insb : Statement .insb := ⟨(by decide), rfl, id, rfl⟩

theorem rep_insb : Statement .rep_insb := ⟨(by decide), rfl, id, rfl⟩

theorem insw : Statement .insw := ⟨(by decide), rfl, id, rfl⟩

theorem rep_insw : Statement .rep_insw := ⟨(by decide), rfl, id, rfl⟩

theorem insl : Statement .insl := ⟨(by decide), rfl, id, rfl⟩

theorem rep_insl : Statement .rep_insl := ⟨(by decide), rfl, id, rfl⟩

theorem outb (port : PortForm) : Statement (.outb port) := ⟨port_le _ _, rfl, id, rfl⟩

theorem outw (port : PortForm) : Statement (.outw port) := ⟨port_le _ _, rfl, id, rfl⟩

theorem outl (port : PortForm) : Statement (.outl port) := ⟨port_le _ _, rfl, id, rfl⟩

theorem outsb (seg : Option SReg) : Statement (.outsb seg) :=
  ⟨by cases seg with
    | none => decide
    | some r => cases r <;> decide, rfl, id, rfl⟩

theorem rep_outsb (seg : Option SReg) : Statement (.rep_outsb seg) :=
  ⟨by cases seg with
    | none => decide
    | some r => cases r <;> decide, rfl, id, rfl⟩

theorem outsw (seg : Option SReg) : Statement (.outsw seg) :=
  ⟨by cases seg with
    | none => decide
    | some r => cases r <;> decide, rfl, id, rfl⟩

theorem rep_outsw (seg : Option SReg) : Statement (.rep_outsw seg) :=
  ⟨by cases seg with
    | none => decide
    | some r => cases r <;> decide, rfl, id, rfl⟩

theorem outsl (seg : Option SReg) : Statement (.outsl seg) :=
  ⟨by cases seg with
    | none => decide
    | some r => cases r <;> decide, rfl, id, rfl⟩

theorem rep_outsl (seg : Option SReg) : Statement (.rep_outsl seg) :=
  ⟨by cases seg with
    | none => decide
    | some r => cases r <;> decide, rfl, id, rfl⟩

theorem lahf : Statement .lahf := ⟨(by decide), rfl, id, rfl⟩

theorem sahf : Statement .sahf := ⟨(by decide), rfl, id, rfl⟩

theorem cmc : Statement .cmc := ⟨(by decide), rfl, id, rfl⟩

theorem clc : Statement .clc := ⟨(by decide), rfl, id, rfl⟩

theorem stc : Statement .stc := ⟨(by decide), rfl, id, rfl⟩

theorem cli : Statement .cli := ⟨(by decide), rfl, id, rfl⟩

theorem sti : Statement .sti := ⟨(by decide), rfl, id, rfl⟩

theorem cld : Statement .cld := ⟨(by decide), rfl, id, rfl⟩

theorem std : Statement .std := ⟨(by decide), rfl, id, rfl⟩

theorem popfw : Statement .popfw := ⟨(by decide), rfl, id, rfl⟩

theorem popfl : Statement .popfl := ⟨(by decide), rfl, id, rfl⟩

theorem pushfw : Statement .pushfw := ⟨(by decide), rfl, id, rfl⟩

theorem pushfl : Statement .pushfl := ⟨(by decide), rfl, id, rfl⟩

theorem addb (f : AluForm Reg8 8) : Statement (.addb f) := ⟨alu_le _ _ _ (by decide), rfl, id, rfl⟩

theorem addw (f : AluForm Reg16 16) : Statement (.addw f) := ⟨alu_le _ _ _ (by decide), rfl, id, rfl⟩

theorem addl (f : AluForm Reg32 32) : Statement (.addl f) := ⟨alu_le _ _ _ (by decide), rfl, id, rfl⟩

theorem orb (f : AluForm Reg8 8) : Statement (.orb f) := ⟨alu_le _ _ _ (by decide), rfl, id, rfl⟩

theorem orw (f : AluForm Reg16 16) : Statement (.orw f) := ⟨alu_le _ _ _ (by decide), rfl, id, rfl⟩

theorem orl (f : AluForm Reg32 32) : Statement (.orl f) := ⟨alu_le _ _ _ (by decide), rfl, id, rfl⟩

theorem adcb (f : AluForm Reg8 8) : Statement (.adcb f) := ⟨alu_le _ _ _ (by decide), rfl, id, rfl⟩

theorem adcw (f : AluForm Reg16 16) : Statement (.adcw f) := ⟨alu_le _ _ _ (by decide), rfl, id, rfl⟩

theorem adcl (f : AluForm Reg32 32) : Statement (.adcl f) := ⟨alu_le _ _ _ (by decide), rfl, id, rfl⟩

theorem sbbb (f : AluForm Reg8 8) : Statement (.sbbb f) := ⟨alu_le _ _ _ (by decide), rfl, id, rfl⟩

theorem sbbw (f : AluForm Reg16 16) : Statement (.sbbw f) := ⟨alu_le _ _ _ (by decide), rfl, id, rfl⟩

theorem sbbl (f : AluForm Reg32 32) : Statement (.sbbl f) := ⟨alu_le _ _ _ (by decide), rfl, id, rfl⟩

theorem andb (f : AluForm Reg8 8) : Statement (.andb f) := ⟨alu_le _ _ _ (by decide), rfl, id, rfl⟩

theorem andw (f : AluForm Reg16 16) : Statement (.andw f) := ⟨alu_le _ _ _ (by decide), rfl, id, rfl⟩

theorem andl (f : AluForm Reg32 32) : Statement (.andl f) := ⟨alu_le _ _ _ (by decide), rfl, id, rfl⟩

theorem subb (f : AluForm Reg8 8) : Statement (.subb f) := ⟨alu_le _ _ _ (by decide), rfl, id, rfl⟩

theorem subw (f : AluForm Reg16 16) : Statement (.subw f) := ⟨alu_le _ _ _ (by decide), rfl, id, rfl⟩

theorem subl (f : AluForm Reg32 32) : Statement (.subl f) := ⟨alu_le _ _ _ (by decide), rfl, id, rfl⟩

theorem xorb (f : AluForm Reg8 8) : Statement (.xorb f) := ⟨alu_le _ _ _ (by decide), rfl, id, rfl⟩

theorem xorw (f : AluForm Reg16 16) : Statement (.xorw f) := ⟨alu_le _ _ _ (by decide), rfl, id, rfl⟩

theorem xorl (f : AluForm Reg32 32) : Statement (.xorl f) := ⟨alu_le _ _ _ (by decide), rfl, id, rfl⟩

theorem cmpb (f : AluForm Reg8 8) : Statement (.cmpb f) := ⟨alu_le _ _ _ (by decide), rfl, id, rfl⟩

theorem cmpw (f : AluForm Reg16 16) : Statement (.cmpw f) := ⟨alu_le _ _ _ (by decide), rfl, id, rfl⟩

theorem cmpl (f : AluForm Reg32 32) : Statement (.cmpl f) := ⟨alu_le _ _ _ (by decide), rfl, id, rfl⟩

theorem incb (dst : RM Reg8) : Statement (.incb dst) := ⟨one_le _ _ _, rfl, id, rfl⟩

theorem incw (f : IncForm Reg16) : Statement (.incw f) := ⟨inc_le _ _ _, rfl, id, rfl⟩

theorem incl (f : IncForm Reg32) : Statement (.incl f) := ⟨inc_le _ _ _, rfl, id, rfl⟩

theorem decb (dst : RM Reg8) : Statement (.decb dst) := ⟨one_le _ _ _, rfl, id, rfl⟩

theorem decw (f : IncForm Reg16) : Statement (.decw f) := ⟨inc_le _ _ _, rfl, id, rfl⟩

theorem decl (f : IncForm Reg32) : Statement (.decl f) := ⟨inc_le _ _ _, rfl, id, rfl⟩

theorem testb (f : TestForm Reg8 8) : Statement (.testb f) := ⟨test_le _ _ (by decide), congrArg Instr.testb (test_canon_canon _), fun h => test_canon_wf _ h, test_canon _ _ _⟩

theorem testw (f : TestForm Reg16 16) : Statement (.testw f) := ⟨test_le _ _ (by decide), congrArg Instr.testw (test_canon_canon _), fun h => test_canon_wf _ h, test_canon _ _ _⟩

theorem testl (f : TestForm Reg32 32) : Statement (.testl f) := ⟨test_le _ _ (by decide), congrArg Instr.testl (test_canon_canon _), fun h => test_canon_wf _ h, test_canon _ _ _⟩

theorem salb (f : ShiftForm Reg8) : Statement (.salb f) := ⟨shift_le _ _ _, rfl, id, rfl⟩

theorem salw (f : ShiftForm Reg16) : Statement (.salw f) := ⟨shift_le _ _ _, rfl, id, rfl⟩

theorem sall (f : ShiftForm Reg32) : Statement (.sall f) := ⟨shift_le _ _ _, rfl, id, rfl⟩

theorem shlb (f : ShiftForm Reg8) : Statement (.shlb f) := ⟨shift_le _ _ _, rfl, id, rfl⟩

theorem shlw (f : ShiftForm Reg16) : Statement (.shlw f) := ⟨shift_le _ _ _, rfl, id, rfl⟩

theorem shll (f : ShiftForm Reg32) : Statement (.shll f) := ⟨shift_le _ _ _, rfl, id, rfl⟩

theorem shrb (f : ShiftForm Reg8) : Statement (.shrb f) := ⟨shift_le _ _ _, rfl, id, rfl⟩

theorem shrw (f : ShiftForm Reg16) : Statement (.shrw f) := ⟨shift_le _ _ _, rfl, id, rfl⟩

theorem shrl (f : ShiftForm Reg32) : Statement (.shrl f) := ⟨shift_le _ _ _, rfl, id, rfl⟩

theorem sarb (f : ShiftForm Reg8) : Statement (.sarb f) := ⟨shift_le _ _ _, rfl, id, rfl⟩

theorem sarw (f : ShiftForm Reg16) : Statement (.sarw f) := ⟨shift_le _ _ _, rfl, id, rfl⟩

theorem sarl (f : ShiftForm Reg32) : Statement (.sarl f) := ⟨shift_le _ _ _, rfl, id, rfl⟩

theorem shldw (f : DShiftForm Reg16) : Statement (.shldw f) := ⟨dshift_le _ _ _, rfl, id, rfl⟩

theorem shldl (f : DShiftForm Reg32) : Statement (.shldl f) := ⟨dshift_le _ _ _, rfl, id, rfl⟩

theorem shrdw (f : DShiftForm Reg16) : Statement (.shrdw f) := ⟨dshift_le _ _ _, rfl, id, rfl⟩

theorem shrdl (f : DShiftForm Reg32) : Statement (.shrdl f) := ⟨dshift_le _ _ _, rfl, id, rfl⟩

theorem notb (dst : RM Reg8) : Statement (.notb dst) := ⟨group3_le _ _ _, rfl, id, rfl⟩

theorem notw (dst : RM Reg16) : Statement (.notw dst) := ⟨group3_le _ _ _, rfl, id, rfl⟩

theorem notl (dst : RM Reg32) : Statement (.notl dst) := ⟨group3_le _ _ _, rfl, id, rfl⟩

theorem negb (dst : RM Reg8) : Statement (.negb dst) := ⟨group3_le _ _ _, rfl, id, rfl⟩

theorem negw (dst : RM Reg16) : Statement (.negw dst) := ⟨group3_le _ _ _, rfl, id, rfl⟩

theorem negl (dst : RM Reg32) : Statement (.negl dst) := ⟨group3_le _ _ _, rfl, id, rfl⟩

theorem mulb (src : RM Reg8) : Statement (.mulb src) := ⟨group3_le _ _ _, rfl, id, rfl⟩

theorem mulw (src : RM Reg16) : Statement (.mulw src) := ⟨group3_le _ _ _, rfl, id, rfl⟩

theorem mull (src : RM Reg32) : Statement (.mull src) := ⟨group3_le _ _ _, rfl, id, rfl⟩

theorem mul (src : RM Reg32) : Statement (.mul src) := ⟨group3_le _ _ _, rfl, id, rfl⟩

theorem imulb (src : RM Reg8) : Statement (.imulb src) := ⟨group3_le _ _ _, rfl, id, rfl⟩

theorem imulw (f : ImulForm Reg16 16) : Statement (.imulw f) := ⟨imul_le _ _ (by decide), rfl, id, rfl⟩

theorem imull (f : ImulForm Reg32 32) : Statement (.imull f) := ⟨imul_le _ _ (by decide), rfl, id, rfl⟩

theorem imul (f : ImulForm Reg32 32) : Statement (.imul f) := ⟨imul_le _ _ (by decide), rfl, id, rfl⟩

theorem divb (src : RM Reg8) : Statement (.divb src) := ⟨group3_le _ _ _, rfl, id, rfl⟩

theorem divw (src : RM Reg16) : Statement (.divw src) := ⟨group3_le _ _ _, rfl, id, rfl⟩

theorem divl (src : RM Reg32) : Statement (.divl src) := ⟨group3_le _ _ _, rfl, id, rfl⟩

theorem div (src : RM Reg32) : Statement (.div src) := ⟨group3_le _ _ _, rfl, id, rfl⟩

theorem boundw (index : Reg16) (bounds : MemOp) : Statement (.boundw index bounds) := ⟨memReg_le _ _ _ (by decide), rfl, id, rfl⟩

theorem boundl (index : Reg32) (bounds : MemOp) : Statement (.boundl index bounds) := ⟨memReg_le _ _ _ (by decide), rfl, id, rfl⟩

theorem jmp (f : JumpForm) : Statement (.jmp f) := ⟨jmp_le _, rfl, id, rfl⟩

theorem jo (f : JumpForm) : Statement (.jo f) := ⟨jcc_le _ _, rfl, id, rfl⟩

theorem jno (f : JumpForm) : Statement (.jno f) := ⟨jcc_le _ _, rfl, id, rfl⟩

theorem jb (f : JumpForm) : Statement (.jb f) := ⟨jcc_le _ _, rfl, id, rfl⟩

theorem jc (f : JumpForm) : Statement (.jc f) := ⟨jcc_le _ _, rfl, id, rfl⟩

theorem jnae (f : JumpForm) : Statement (.jnae f) := ⟨jcc_le _ _, rfl, id, rfl⟩

theorem jae (f : JumpForm) : Statement (.jae f) := ⟨jcc_le _ _, rfl, id, rfl⟩

theorem jnb (f : JumpForm) : Statement (.jnb f) := ⟨jcc_le _ _, rfl, id, rfl⟩

theorem jnc (f : JumpForm) : Statement (.jnc f) := ⟨jcc_le _ _, rfl, id, rfl⟩

theorem je (f : JumpForm) : Statement (.je f) := ⟨jcc_le _ _, rfl, id, rfl⟩

theorem jz (f : JumpForm) : Statement (.jz f) := ⟨jcc_le _ _, rfl, id, rfl⟩

theorem jne (f : JumpForm) : Statement (.jne f) := ⟨jcc_le _ _, rfl, id, rfl⟩

theorem jnz (f : JumpForm) : Statement (.jnz f) := ⟨jcc_le _ _, rfl, id, rfl⟩

theorem jbe (f : JumpForm) : Statement (.jbe f) := ⟨jcc_le _ _, rfl, id, rfl⟩

theorem jna (f : JumpForm) : Statement (.jna f) := ⟨jcc_le _ _, rfl, id, rfl⟩

theorem ja (f : JumpForm) : Statement (.ja f) := ⟨jcc_le _ _, rfl, id, rfl⟩

theorem jnbe (f : JumpForm) : Statement (.jnbe f) := ⟨jcc_le _ _, rfl, id, rfl⟩

theorem js (f : JumpForm) : Statement (.js f) := ⟨jcc_le _ _, rfl, id, rfl⟩

theorem jns (f : JumpForm) : Statement (.jns f) := ⟨jcc_le _ _, rfl, id, rfl⟩

theorem jp (f : JumpForm) : Statement (.jp f) := ⟨jcc_le _ _, rfl, id, rfl⟩

theorem jpe (f : JumpForm) : Statement (.jpe f) := ⟨jcc_le _ _, rfl, id, rfl⟩

theorem jnp (f : JumpForm) : Statement (.jnp f) := ⟨jcc_le _ _, rfl, id, rfl⟩

theorem jpo (f : JumpForm) : Statement (.jpo f) := ⟨jcc_le _ _, rfl, id, rfl⟩

theorem jl (f : JumpForm) : Statement (.jl f) := ⟨jcc_le _ _, rfl, id, rfl⟩

theorem jnge (f : JumpForm) : Statement (.jnge f) := ⟨jcc_le _ _, rfl, id, rfl⟩

theorem jge (f : JumpForm) : Statement (.jge f) := ⟨jcc_le _ _, rfl, id, rfl⟩

theorem jnl (f : JumpForm) : Statement (.jnl f) := ⟨jcc_le _ _, rfl, id, rfl⟩

theorem jle (f : JumpForm) : Statement (.jle f) := ⟨jcc_le _ _, rfl, id, rfl⟩

theorem jng (f : JumpForm) : Statement (.jng f) := ⟨jcc_le _ _, rfl, id, rfl⟩

theorem jg (f : JumpForm) : Statement (.jg f) := ⟨jcc_le _ _, rfl, id, rfl⟩

theorem jnle (f : JumpForm) : Statement (.jnle f) := ⟨jcc_le _ _, rfl, id, rfl⟩

end Sys2Proof.Laws.Spelling
end

