-- ==== Sys2Proof/Tests/Slice0.lean ====
section
/-! SUPPORT. The model's own tests: ill-formed terms, words written out from the spec's encodings, single steps with
the outcomes of `95_test_vectors.md` (the row is named in each comment), and a witness for the hypotheses of each
statement. -/

namespace Sys2Proof.Tests

open Sys2Proof Sys2Proof.Machine

/-! ### Ill-formed terms are refused -/

def espIndex : MemOp := { seg := none, base := some .eax, index := some (.esp, .s1), disp := 0#32 }

theorem test_wf_esp_is_no_index : (Instr.addl (.rmReg (.mem espIndex) .eax)).wf = false := by decide
theorem test_wf_esp_is_no_index_in_a_pointer : (Instr.ldsl espIndex .eax).wf = false := by decide
theorem test_wf_esp_is_no_index_in_a_shift : (Instr.shldw (.cl .ax (.mem espIndex))).wf = false := by decide
theorem test_wf_no_byte_imm8 : (Instr.addb (.imm8Rm 1#8 (.reg .al))).wf = false := by decide
theorem test_wf_no_pop_cs : (Instr.pop .cs).wf = false := by decide
theorem test_wf_no_popl_cs : (Instr.popl (.sreg .cs)).wf = false := by decide
theorem test_wf_esp_is_a_base : (Instr.addl (.rmReg (.mem { espIndex with base := some .esp, index := none }) .eax)).wf = true := by
  decide

/-! ### Words of the spec's encodings (R75 to R85, vectors C1 to C18) decode to the instructions they stand for -/

def reads (rows : List (List Byte × Instr)) : Bool := rows.all fun r => decode r.1 == .ok (r.2, r.1.length)

def words_segment : List (List Byte × Instr) :=
  [([0x66#8, 0xC5#8, 0x0B#8], .ldsw { seg := none, base := some .ebx, index := none, disp := 0#32 } .cx),
   ([0xC5#8, 0x4E#8, 0x08#8], .ldsl { seg := none, base := some .esi, index := none, disp := 8#32 } .ecx),
   ([0x66#8, 0xC4#8, 0x0B#8], .lesw { seg := none, base := some .ebx, index := none, disp := 0#32 } .cx),
   ([0xC4#8, 0x3B#8], .lesl { seg := none, base := some .ebx, index := none, disp := 0#32 } .edi),
   ([0x66#8, 0x0F#8, 0xB4#8, 0x03#8], .lfsw { seg := none, base := some .ebx, index := none, disp := 0#32 } .ax),
   ([0x0F#8, 0xB4#8, 0x03#8], .lfsl { seg := none, base := some .ebx, index := none, disp := 0#32 } .eax),
   ([0x66#8, 0x0F#8, 0xB5#8, 0x03#8], .lgsw { seg := none, base := some .ebx, index := none, disp := 0#32 } .ax),
   ([0x0F#8, 0xB5#8, 0x4E#8, 0x08#8],
      .lgsl { seg := none, base := some .esi, index := none, disp := 8#32 } .ecx),
   ([0x66#8, 0x0F#8, 0xB2#8, 0x03#8], .lssw { seg := none, base := some .ebx, index := none, disp := 0#32 } .ax),
   ([0x0F#8, 0xB2#8, 0x20#8], .lssl { seg := none, base := some .eax, index := none, disp := 0#32 } .esp)]

theorem test_decode_segment : reads words_segment = true := by decide

def words_stack : List (List Byte × Instr) :=
  [([0x66#8, 0x58#8], .popw (.reg .ax)),
   ([0x66#8, 0x8F#8, 0x47#8, 0x04#8],
      .popw (.rm (.mem { seg := none, base := some .edi, index := none, disp := 4#32 }))),
   ([0x5C#8], .popl (.reg .esp)),
   ([0x8F#8, 0x44#8, 0x24#8, 0x04#8],
      .popl (.rm (.mem { seg := none, base := some .esp, index := none, disp := 4#32 }))),
   ([0x07#8], .popl (.sreg .es)),
   ([0x17#8], .popl (.sreg .ss)),
   ([0x1F#8], .popl (.sreg .ds)),
   ([0x0F#8, 0xA1#8], .popl (.sreg .fs)),
   ([0x0F#8, 0xA9#8], .popl (.sreg .gs)),
   ([0x66#8, 0x50#8], .pushw (.reg .ax)),
   ([0x66#8, 0xFF#8, 0x77#8, 0x04#8],
      .pushw (.rm (.mem { seg := none, base := some .edi, index := none, disp := 4#32 }))),
   ([0x66#8, 0x6A#8, 0x82#8], .pushw (.imm8 0x82#8)),
   ([0x66#8, 0x68#8, 0x34#8, 0x12#8], .pushw (.imm 0x1234#16))]

theorem test_decode_stack : reads words_stack = true := by decide

def words_push : List (List Byte × Instr) :=
  [([0x53#8], .pushl (.reg .ebx)),
   ([0xFF#8, 0x75#8, 0x08#8],
      .pushl (.rm (.mem { seg := none, base := some .ebp, index := none, disp := 8#32 }))),
   ([0x6A#8, 0xFF#8], .pushl (.imm8 0xFF#8)),
   ([0x68#8, 0x15#8, 0xEC#8, 0x65#8, 0x01#8], .pushl (.imm 0x0165EC15#32)),
   ([0x06#8], .pushl (.sreg .es)),
   ([0x0E#8], .pushl (.sreg .cs)),
   ([0x16#8], .pushl (.sreg .ss)),
   ([0x1E#8], .pushl (.sreg .ds)),
   ([0x0F#8, 0xA0#8], .pushl (.sreg .fs)),
   ([0x0F#8, 0xA8#8], .pushl (.sreg .gs))]

theorem test_decode_push : reads words_push = true := by decide

def words_ports : List (List Byte × Instr) :=
  [([0xE4#8, 0xFF#8], .inb (.imm8 0xFF#8)),
   ([0x66#8, 0xE5#8, 0x10#8], .inw (.imm8 0x10#8)),
   ([0xE5#8, 0x80#8], .inl (.imm8 0x80#8)),
   ([0xEC#8], .inb .dx),
   ([0x66#8, 0xED#8], .inw .dx),
   ([0xED#8], .inl .dx),
   ([0xE6#8, 0x80#8], .outb (.imm8 0x80#8)),
   ([0x66#8, 0xE7#8, 0xFF#8], .outw (.imm8 0xFF#8)),
   ([0xE7#8, 0x10#8], .outl (.imm8 0x10#8)),
   ([0xEE#8], .outb .dx),
   ([0x66#8, 0xEF#8], .outw .dx),
   ([0xEF#8], .outl .dx)]

theorem test_decode_ports : reads words_ports = true := by decide

def words_strings : List (List Byte × Instr) :=
  [([0x6C#8], .insb),
   ([0x66#8, 0x6D#8], .insw),
   ([0x6D#8], .insl),
   ([0xF3#8, 0x6C#8], .rep_insb),
   ([0xF3#8, 0x66#8, 0x6D#8], .rep_insw),
   ([0xF3#8, 0x6D#8], .rep_insl),
   ([0x6E#8], .outsb none),
   ([0x66#8, 0x6F#8], .outsw none),
   ([0x6F#8], .outsl none),
   ([0xF3#8, 0x6E#8], .rep_outsb none),
   ([0xF3#8, 0x66#8, 0x6F#8], .rep_outsw none),
   ([0xF3#8, 0x6F#8], .rep_outsl none),
   ([0x64#8, 0x6E#8], .outsb (some .fs))]

theorem test_decode_strings : reads words_strings = true := by decide

def words_flags : List (List Byte × Instr) :=
  [([0x9F#8], .lahf),
   ([0x9E#8], .sahf),
   ([0xF5#8], .cmc),
   ([0xF8#8], .clc),
   ([0xF9#8], .stc),
   ([0xFA#8], .cli),
   ([0xFB#8], .sti),
   ([0xFC#8], .cld),
   ([0xFD#8], .std),
   ([0x66#8, 0x9D#8], .popfw),
   ([0x9D#8], .popfl),
   ([0x66#8, 0x9C#8], .pushfw),
   ([0x9C#8], .pushfl)]

theorem test_decode_flags : reads words_flags = true := by decide

def words_alu_byte : List (List Byte × Instr) :=
  [([0x00#8, 0x4E#8, 0x01#8],
      .addb (.regRm .cl (.mem { seg := none, base := some .esi, index := none, disp := 1#32 }))),
   ([0x08#8, 0x4E#8, 0x01#8],
      .orb (.regRm .cl (.mem { seg := none, base := some .esi, index := none, disp := 1#32 }))),
   ([0x10#8, 0x4E#8, 0x01#8],
      .adcb (.regRm .cl (.mem { seg := none, base := some .esi, index := none, disp := 1#32 }))),
   ([0x18#8, 0x4E#8, 0x01#8],
      .sbbb (.regRm .cl (.mem { seg := none, base := some .esi, index := none, disp := 1#32 }))),
   ([0x20#8, 0x4E#8, 0x01#8],
      .andb (.regRm .cl (.mem { seg := none, base := some .esi, index := none, disp := 1#32 }))),
   ([0x28#8, 0x4E#8, 0x01#8],
      .subb (.regRm .cl (.mem { seg := none, base := some .esi, index := none, disp := 1#32 }))),
   ([0x30#8, 0x4E#8, 0x01#8],
      .xorb (.regRm .cl (.mem { seg := none, base := some .esi, index := none, disp := 1#32 }))),
   ([0x38#8, 0x4E#8, 0x01#8],
      .cmpb (.regRm .cl (.mem { seg := none, base := some .esi, index := none, disp := 1#32 })))]

theorem test_decode_alu_byte : reads words_alu_byte = true := by decide

def words_alu_word : List (List Byte × Instr) :=
  [([0x66#8, 0x03#8, 0x57#8, 0x04#8],
      .addw (.rmReg (.mem { seg := none, base := some .edi, index := none, disp := 4#32 }) .dx)),
   ([0x66#8, 0x0B#8, 0x57#8, 0x04#8],
      .orw (.rmReg (.mem { seg := none, base := some .edi, index := none, disp := 4#32 }) .dx)),
   ([0x66#8, 0x13#8, 0x57#8, 0x04#8],
      .adcw (.rmReg (.mem { seg := none, base := some .edi, index := none, disp := 4#32 }) .dx)),
   ([0x66#8, 0x1B#8, 0x57#8, 0x04#8],
      .sbbw (.rmReg (.mem { seg := none, base := some .edi, index := none, disp := 4#32 }) .dx)),
   ([0x66#8, 0x23#8, 0x57#8, 0x04#8],
      .andw (.rmReg (.mem { seg := none, base := some .edi, index := none, disp := 4#32 }) .dx)),
   ([0x66#8, 0x2B#8, 0x57#8, 0x04#8],
      .subw (.rmReg (.mem { seg := none, base := some .edi, index := none, disp := 4#32 }) .dx)),
   ([0x66#8, 0x33#8, 0x57#8, 0x04#8],
      .xorw (.rmReg (.mem { seg := none, base := some .edi, index := none, disp := 4#32 }) .dx)),
   ([0x66#8, 0x3B#8, 0x57#8, 0x04#8],
      .cmpw (.rmReg (.mem { seg := none, base := some .edi, index := none, disp := 4#32 }) .dx))]

theorem test_decode_alu_word : reads words_alu_word = true := by decide

def words_alu_word_imm8 : List (List Byte × Instr) :=
  [([0x66#8, 0x83#8, 0x47#8, 0x04#8, 0x83#8],
      .addw (.imm8Rm 0x83#8 (.mem { seg := none, base := some .edi, index := none, disp := 4#32 }))),
   ([0x66#8, 0x83#8, 0x4F#8, 0x04#8, 0x83#8],
      .orw (.imm8Rm 0x83#8 (.mem { seg := none, base := some .edi, index := none, disp := 4#32 }))),
   ([0x66#8, 0x83#8, 0x57#8, 0x04#8, 0x83#8],
      .adcw (.imm8Rm 0x83#8 (.mem { seg := none, base := some .edi, index := none, disp := 4#32 }))),
   ([0x66#8, 0x83#8, 0x5F#8, 0x04#8, 0x83#8],
      .sbbw (.imm8Rm 0x83#8 (.mem { seg := none, base := some .edi, index := none, disp := 4#32 }))),
   ([0x66#8, 0x83#8, 0x67#8, 0x04#8, 0x83#8],
      .andw (.imm8Rm 0x83#8 (.mem { seg := none, base := some .edi, index := none, disp := 4#32 }))),
   ([0x66#8, 0x83#8, 0x6F#8, 0x04#8, 0x83#8],
      .subw (.imm8Rm 0x83#8 (.mem { seg := none, base := some .edi, index := none, disp := 4#32 }))),
   ([0x66#8, 0x83#8, 0x77#8, 0x04#8, 0x83#8],
      .xorw (.imm8Rm 0x83#8 (.mem { seg := none, base := some .edi, index := none, disp := 4#32 }))),
   ([0x66#8, 0x83#8, 0x7F#8, 0x04#8, 0x83#8],
      .cmpw (.imm8Rm 0x83#8 (.mem { seg := none, base := some .edi, index := none, disp := 4#32 })))]

theorem test_decode_alu_word_imm8 : reads words_alu_word_imm8 = true := by decide

def words_alu_long_acc : List (List Byte × Instr) :=
  [([0x05#8, 0x78#8, 0x56#8, 0x34#8, 0x12#8], .addl (.immAcc 0x12345678#32)),
   ([0x0D#8, 0x78#8, 0x56#8, 0x34#8, 0x12#8], .orl (.immAcc 0x12345678#32)),
   ([0x15#8, 0x78#8, 0x56#8, 0x34#8, 0x12#8], .adcl (.immAcc 0x12345678#32)),
   ([0x1D#8, 0x78#8, 0x56#8, 0x34#8, 0x12#8], .sbbl (.immAcc 0x12345678#32)),
   ([0x25#8, 0x78#8, 0x56#8, 0x34#8, 0x12#8], .andl (.immAcc 0x12345678#32)),
   ([0x2D#8, 0x78#8, 0x56#8, 0x34#8, 0x12#8], .subl (.immAcc 0x12345678#32)),
   ([0x35#8, 0x78#8, 0x56#8, 0x34#8, 0x12#8], .xorl (.immAcc 0x12345678#32)),
   ([0x3D#8, 0x78#8, 0x56#8, 0x34#8, 0x12#8], .cmpl (.immAcc 0x12345678#32))]

theorem test_decode_alu_long_acc : reads words_alu_long_acc = true := by decide

def words_alu_long_imm : List (List Byte × Instr) :=
  [([0x81#8, 0x47#8, 0x04#8, 0x4E#8, 0x61#8, 0xBC#8, 0x00#8],
      .addl (.immRm 12345678#32 (.mem { seg := none, base := some .edi, index := none, disp := 4#32 }))),
   ([0x81#8, 0x4F#8, 0x04#8, 0x4E#8, 0x61#8, 0xBC#8, 0x00#8],
      .orl (.immRm 12345678#32 (.mem { seg := none, base := some .edi, index := none, disp := 4#32 }))),
   ([0x81#8, 0x57#8, 0x04#8, 0x4E#8, 0x61#8, 0xBC#8, 0x00#8],
      .adcl (.immRm 12345678#32 (.mem { seg := none, base := some .edi, index := none, disp := 4#32 }))),
   ([0x81#8, 0x5F#8, 0x04#8, 0x4E#8, 0x61#8, 0xBC#8, 0x00#8],
      .sbbl (.immRm 12345678#32 (.mem { seg := none, base := some .edi, index := none, disp := 4#32 }))),
   ([0x81#8, 0x67#8, 0x04#8, 0x4E#8, 0x61#8, 0xBC#8, 0x00#8],
      .andl (.immRm 12345678#32 (.mem { seg := none, base := some .edi, index := none, disp := 4#32 }))),
   ([0x81#8, 0x6F#8, 0x04#8, 0x4E#8, 0x61#8, 0xBC#8, 0x00#8],
      .subl (.immRm 12345678#32 (.mem { seg := none, base := some .edi, index := none, disp := 4#32 }))),
   ([0x81#8, 0x77#8, 0x04#8, 0x4E#8, 0x61#8, 0xBC#8, 0x00#8],
      .xorl (.immRm 12345678#32 (.mem { seg := none, base := some .edi, index := none, disp := 4#32 }))),
   ([0x81#8, 0x7F#8, 0x04#8, 0x4E#8, 0x61#8, 0xBC#8, 0x00#8],
      .cmpl (.immRm 12345678#32 (.mem { seg := none, base := some .edi, index := none, disp := 4#32 })))]

theorem test_decode_alu_long_imm : reads words_alu_long_imm = true := by decide

def words_count : List (List Byte × Instr) :=
  [([0xFE#8, 0x46#8, 0x01#8], .incb (.mem { seg := none, base := some .esi, index := none, disp := 1#32 })),
   ([0x66#8, 0x40#8], .incw (.reg .ax)),
   ([0xFF#8, 0x47#8, 0x04#8],
      .incl (.rm (.mem { seg := none, base := some .edi, index := none, disp := 4#32 }))),
   ([0xFE#8, 0x4E#8, 0x01#8], .decb (.mem { seg := none, base := some .esi, index := none, disp := 1#32 })),
   ([0x66#8, 0x4B#8], .decw (.reg .bx)),
   ([0xFF#8, 0x4F#8, 0x04#8],
      .decl (.rm (.mem { seg := none, base := some .edi, index := none, disp := 4#32 }))),
   ([0x49#8], .decl (.reg .ecx)),
   ([0xF6#8, 0x46#8, 0x01#8, 0xFF#8],
      .testb (.immRm 0xFF#8 (.mem { seg := none, base := some .esi, index := none, disp := 1#32 }))),
   ([0x66#8, 0x85#8, 0x57#8, 0x04#8],
      .testw (.regRm .dx (.mem { seg := none, base := some .edi, index := none, disp := 4#32 }))),
   ([0xA9#8, 0x03#8, 0x00#8, 0x00#8, 0x00#8], .testl (.immAcc 3#32))]

theorem test_decode_count : reads words_count = true := by decide

def words_shifts : List (List Byte × Instr) :=
  [([0xD0#8, 0xE0#8], .salb (.one (.reg .al))),
   ([0x66#8, 0xD1#8, 0xE0#8], .salw (.one (.reg .ax))),
   ([0xC1#8, 0x67#8, 0x04#8, 0xFD#8],
      .sall (.imm 0xFD#8 (.mem { seg := none, base := some .edi, index := none, disp := 4#32 }))),
   ([0xD2#8, 0xE9#8], .shrb (.cl (.reg .cl))),
   ([0x66#8, 0xD3#8, 0x6F#8, 0x04#8],
      .shrw (.cl (.mem { seg := none, base := some .edi, index := none, disp := 4#32 }))),
   ([0xD1#8, 0xE8#8], .shrl (.one (.reg .eax))),
   ([0xC0#8, 0x7E#8, 0x01#8, 0xFD#8],
      .sarb (.imm 0xFD#8 (.mem { seg := none, base := some .esi, index := none, disp := 1#32 }))),
   ([0x66#8, 0xD3#8, 0xFA#8], .sarw (.cl (.reg .dx))),
   ([0xC1#8, 0xF8#8, 0x1F#8], .sarl (.imm 31#8 (.reg .eax))),
   ([0x66#8, 0x0F#8, 0xA4#8, 0x57#8, 0x04#8, 0xFD#8],
      .shldw (.imm 0xFD#8 .dx (.mem { seg := none, base := some .edi, index := none, disp := 4#32 }))),
   ([0x0F#8, 0xA5#8, 0x57#8, 0x04#8],
      .shldl (.cl .edx (.mem { seg := none, base := some .edi, index := none, disp := 4#32 }))),
   ([0x66#8, 0x0F#8, 0xAC#8, 0x57#8, 0x04#8, 0xFD#8],
      .shrdw (.imm 0xFD#8 .dx (.mem { seg := none, base := some .edi, index := none, disp := 4#32 }))),
   ([0x0F#8, 0xAD#8, 0x57#8, 0x04#8],
      .shrdl (.cl .edx (.mem { seg := none, base := some .edi, index := none, disp := 4#32 })))]

theorem test_decode_shifts : reads words_shifts = true := by decide

def words_unary : List (List Byte × Instr) :=
  [([0xF6#8, 0x56#8, 0x01#8], .notb (.mem { seg := none, base := some .esi, index := none, disp := 1#32 })),
   ([0x66#8, 0xF7#8, 0x57#8, 0x04#8],
      .notw (.mem { seg := none, base := some .edi, index := none, disp := 4#32 })),
   ([0xF7#8, 0x57#8, 0x04#8], .notl (.mem { seg := none, base := some .edi, index := none, disp := 4#32 })),
   ([0xF6#8, 0xDC#8], .negb (.reg .ah)),
   ([0x66#8, 0xF7#8, 0x5F#8, 0x04#8],
      .negw (.mem { seg := none, base := some .edi, index := none, disp := 4#32 })),
   ([0xF7#8, 0x5F#8, 0x04#8], .negl (.mem { seg := none, base := some .edi, index := none, disp := 4#32 })),
   ([0x66#8, 0x62#8, 0x03#8], .boundw .ax { seg := none, base := some .ebx, index := none, disp := 0#32 }),
   ([0x62#8, 0x47#8, 0x04#8], .boundl .eax { seg := none, base := some .edi, index := none, disp := 4#32 })]

theorem test_decode_unary : reads words_unary = true := by decide

def words_multiply : List (List Byte × Instr) :=
  [([0xF6#8, 0x66#8, 0x01#8], .mulb (.mem { seg := none, base := some .esi, index := none, disp := 1#32 })),
   ([0x66#8, 0xF7#8, 0x67#8, 0x04#8],
      .mulw (.mem { seg := none, base := some .edi, index := none, disp := 4#32 })),
   ([0xF7#8, 0x67#8, 0x01#8], .mull (.mem { seg := none, base := some .edi, index := none, disp := 1#32 })),
   ([0xF6#8, 0x6E#8, 0x01#8], .imulb (.mem { seg := none, base := some .esi, index := none, disp := 1#32 })),
   ([0x66#8, 0xF7#8, 0xEB#8], .imulw (.one (.reg .bx))),
   ([0x66#8, 0x6B#8, 0x57#8, 0x04#8, 0x82#8],
      .imulw (.three8 0x82#8 (.mem { seg := none, base := some .edi, index := none, disp := 4#32 }) .dx)),
   ([0x0F#8, 0xAF#8, 0xC3#8], .imull (.two (.reg .ebx) .eax)),
   ([0x69#8, 0x57#8, 0x04#8, 0x4E#8, 0x61#8, 0xBC#8, 0x00#8],
      .imull (.three 12345678#32 (.mem { seg := none, base := some .edi, index := none, disp := 4#32 }) .edx)),
   ([0xF6#8, 0xF1#8], .divb (.reg .cl)),
   ([0x66#8, 0xF7#8, 0xF3#8], .divw (.reg .bx)),
   ([0xF7#8, 0xF3#8], .divl (.reg .ebx))]

theorem test_decode_multiply : reads words_multiply = true := by decide

def words_jumps : List (List Byte × Instr) :=
  [([0xEB#8, 0xFE#8], .jmp (.disp8 0xFE#8)),
   ([0xE9#8, 0x00#8, 0x01#8, 0x00#8, 0x00#8], .jmp (.disp32 0x100#32)),
   ([0x70#8, 0x10#8], .jo (.disp8 0x10#8)),
   ([0x71#8, 0x10#8], .jno (.disp8 0x10#8)),
   ([0x72#8, 0x10#8], .jb (.disp8 0x10#8)),
   ([0x73#8, 0x10#8], .jae (.disp8 0x10#8)),
   ([0x74#8, 0x10#8], .je (.disp8 0x10#8)),
   ([0x75#8, 0x10#8], .jne (.disp8 0x10#8)),
   ([0x76#8, 0x10#8], .jbe (.disp8 0x10#8)),
   ([0x77#8, 0x10#8], .ja (.disp8 0x10#8)),
   ([0x78#8, 0x10#8], .js (.disp8 0x10#8)),
   ([0x79#8, 0x10#8], .jns (.disp8 0x10#8)),
   ([0x7A#8, 0x10#8], .jp (.disp8 0x10#8)),
   ([0x7B#8, 0x10#8], .jnp (.disp8 0x10#8)),
   ([0x7C#8, 0x10#8], .jl (.disp8 0x10#8)),
   ([0x7D#8, 0x10#8], .jge (.disp8 0x10#8)),
   ([0x7E#8, 0x10#8], .jle (.disp8 0x10#8)),
   ([0x7F#8, 0x10#8], .jg (.disp8 0x10#8))]

theorem test_decode_jumps : reads words_jumps = true := by decide

def words_near_jumps : List (List Byte × Instr) :=
  [([0x0F#8, 0x80#8, 0xF0#8, 0xFF#8, 0xFF#8, 0xFF#8], .jo (.disp32 0xFFFFFFF0#32)),
   ([0x0F#8, 0x81#8, 0xF0#8, 0xFF#8, 0xFF#8, 0xFF#8], .jno (.disp32 0xFFFFFFF0#32)),
   ([0x0F#8, 0x82#8, 0xF0#8, 0xFF#8, 0xFF#8, 0xFF#8], .jb (.disp32 0xFFFFFFF0#32)),
   ([0x0F#8, 0x83#8, 0xF0#8, 0xFF#8, 0xFF#8, 0xFF#8], .jae (.disp32 0xFFFFFFF0#32)),
   ([0x0F#8, 0x84#8, 0xF0#8, 0xFF#8, 0xFF#8, 0xFF#8], .je (.disp32 0xFFFFFFF0#32)),
   ([0x0F#8, 0x85#8, 0xF0#8, 0xFF#8, 0xFF#8, 0xFF#8], .jne (.disp32 0xFFFFFFF0#32)),
   ([0x0F#8, 0x86#8, 0xF0#8, 0xFF#8, 0xFF#8, 0xFF#8], .jbe (.disp32 0xFFFFFFF0#32)),
   ([0x0F#8, 0x87#8, 0xF0#8, 0xFF#8, 0xFF#8, 0xFF#8], .ja (.disp32 0xFFFFFFF0#32)),
   ([0x0F#8, 0x88#8, 0xF0#8, 0xFF#8, 0xFF#8, 0xFF#8], .js (.disp32 0xFFFFFFF0#32)),
   ([0x0F#8, 0x89#8, 0xF0#8, 0xFF#8, 0xFF#8, 0xFF#8], .jns (.disp32 0xFFFFFFF0#32)),
   ([0x0F#8, 0x8A#8, 0xF0#8, 0xFF#8, 0xFF#8, 0xFF#8], .jp (.disp32 0xFFFFFFF0#32)),
   ([0x0F#8, 0x8B#8, 0xF0#8, 0xFF#8, 0xFF#8, 0xFF#8], .jnp (.disp32 0xFFFFFFF0#32)),
   ([0x0F#8, 0x8C#8, 0xF0#8, 0xFF#8, 0xFF#8, 0xFF#8], .jl (.disp32 0xFFFFFFF0#32)),
   ([0x0F#8, 0x8D#8, 0xF0#8, 0xFF#8, 0xFF#8, 0xFF#8], .jge (.disp32 0xFFFFFFF0#32)),
   ([0x0F#8, 0x8E#8, 0xF0#8, 0xFF#8, 0xFF#8, 0xFF#8], .jle (.disp32 0xFFFFFFF0#32)),
   ([0x0F#8, 0x8F#8, 0xF0#8, 0xFF#8, 0xFF#8, 0xFF#8], .jg (.disp32 0xFFFFFFF0#32))]

theorem test_decode_near_jumps : reads words_near_jumps = true := by decide

def words_addresses : List (List Byte × Instr) :=
  [([0x03#8, 0x04#8, 0x24#8],
      .addl (.rmReg (.mem { seg := none, base := some .esp, index := none, disp := 0#32 }) .eax)),
   ([0x03#8, 0x45#8, 0x00#8],
      .addl (.rmReg (.mem { seg := none, base := some .ebp, index := none, disp := 0#32 }) .eax)),
   ([0x03#8, 0x05#8, 0x78#8, 0x56#8, 0x34#8, 0x12#8],
      .addl (.rmReg (.mem { seg := none, base := none, index := none, disp := 0x12345678#32 }) .eax)),
   ([0x80#8, 0x3C#8, 0x0B#8, 0x00#8],
      .cmpb (.immRm 0#8 (.mem { seg := none, base := some .ebx, index := some (.ecx, .s1), disp := 0#32 }))),
   ([0x03#8, 0x04#8, 0xB3#8],
      .addl (.rmReg (.mem { seg := none, base := some .ebx, index := some (.esi, .s4), disp := 0#32 }) .eax)),
   ([0x03#8, 0x14#8, 0xCD#8, 0x10#8, 0x00#8, 0x00#8, 0x00#8],
      .addl (.rmReg (.mem { seg := none, base := none, index := some (.ecx, .s8), disp := 16#32 }) .edx)),
   ([0x64#8, 0x03#8, 0x45#8, 0xFC#8],
      .addl (.rmReg (.mem { seg := some .fs, base := some .ebp, index := none, disp := 0xFFFFFFFC#32 }) .eax))]

theorem test_decode_addresses : reads words_addresses = true := by decide

/-- The encoder writes the same words. -/
theorem test_encode_words : (words_stack ++ words_push ++ words_unary ++ words_shifts ++ words_addresses).all
    (fun r => encode r.2 == r.1) = true := by decide

/-- The second spellings: the words of the first (log 21). -/
def words_synonyms : List (List Byte × Instr) :=
  [([0x1F#8], .pop .ds),
   ([0x0F#8, 0xA0#8], .push .fs),
   ([0xD2#8, 0xE3#8], .shlb (.cl (.reg .bl))),
   ([0x66#8, 0xC1#8, 0xE0#8, 0x04#8], .shlw (.imm 4#8 (.reg .ax))),
   ([0xD1#8, 0xE7#8], .shll (.one (.reg .edi))),
   ([0xF7#8, 0x67#8, 0x01#8], .mul (.mem { seg := none, base := some .edi, index := none, disp := 1#32 })),
   ([0x0F#8, 0xAF#8, 0xC3#8], .imul (.two (.reg .ebx) .eax)),
   ([0xF7#8, 0xF3#8], .div (.reg .ebx)),
   ([0x72#8, 0x10#8], .jc (.disp8 0x10#8)),
   ([0x72#8, 0x10#8], .jnae (.disp8 0x10#8)),
   ([0x73#8, 0x10#8], .jnb (.disp8 0x10#8)),
   ([0x73#8, 0x10#8], .jnc (.disp8 0x10#8)),
   ([0x74#8, 0x10#8], .jz (.disp8 0x10#8)),
   ([0x75#8, 0x10#8], .jnz (.disp8 0x10#8)),
   ([0x76#8, 0x10#8], .jna (.disp8 0x10#8)),
   ([0x77#8, 0x10#8], .jnbe (.disp8 0x10#8)),
   ([0x7A#8, 0x10#8], .jpe (.disp8 0x10#8)),
   ([0x7B#8, 0x10#8], .jpo (.disp8 0x10#8)),
   ([0x7C#8, 0x10#8], .jnge (.disp8 0x10#8)),
   ([0x7D#8, 0x10#8], .jnl (.disp8 0x10#8)),
   ([0x7E#8, 0x10#8], .jng (.disp8 0x10#8)),
   ([0x7F#8, 0x10#8], .jnle (.disp8 0x10#8))]

theorem test_encode_synonyms : words_synonyms.all (fun r => encode r.2 == r.1 && reads [(r.1, r.2.canon)]) = true := by decide

/-! ### Single steps -/

def after (o : Host.Outcome State Fault Refusal) (p : State → Bool) : Bool :=
  match o with
  | .next t => p t
  | _ => false

def faults (o : Host.Outcome State Fault Refusal) (f : Fault) : Bool :=
  match o with
  | .fault g => g == f
  | _ => false

def refuses (o : Host.Outcome State Fault Refusal) (r : Refusal) : Bool :=
  match o with
  | .refused q => q == r
  | _ => false

/-- Registers and flags of the vectors: `%esp = 0x8000`, all else 0. -/
def g0 : Gpr := { State.reset.gpr with edx := 0#32, esp := 0x8000#32 }
def f0 : Flags := State.reset.flags

/-- A flat launch at `0x1000` with these registers, flags and memory bytes. -/
def cpu (code : List Byte) (g : Gpr) (f : Flags) (m : List (Nat × Byte)) : State :=
  let s := launch 0x1000#32 code
  { s with gpr := g, flags := f, mem := m.foldl (fun n c => n.write c.1 c.2) s.mem }

def atCpl (c : BitVec 2) (s : State) : State := { s with cpl := c }
def answers (v : List Word) (s : State) : State := { s with portAnswers := v }
def readOnly (a : Nat) (s : State) : State := { s with plat := { s.plat with noWrite := [⟨a, 4⟩] } }
def extraBase (b : Word) (s : State) : State :=
  { s with plat := { s.plat with segBase := { s.plat.segBase with es := b } } }

/-- CF, OF, AF, SF, ZF, PF. -/
def six (t : State) : Bool × Bool × Bool × Bool × Bool × Bool :=
  (t.flags.cf, t.flags.of, t.flags.af, t.flags.sf, t.flags.zf, t.flags.pf)

/-- CF, OF, SF, ZF, PF: where AF is a draw. -/
def five (t : State) : Bool × Bool × Bool × Bool × Bool := (t.flags.cf, t.flags.of, t.flags.sf, t.flags.zf, t.flags.pf)

/-- E28. -/
theorem test_addb_imm :
    (after (step (cpu [0x04#8, 0x82#8] { g0 with eax := 0x7E#32 } f0 [])) fun t =>
      t.gpr.eax == 0#32 && six t == (true, false, true, false, true, true) && t.pc == 0x1002#32) = true := by decide

/-- E30. -/
theorem test_addl_mem :
    (after (step (cpu [0x01#8, 0x57#8, 0x04#8] { g0 with edi := 0x2000#32, edx := 0x7FFFFFFF#32 } f0 [(0x2004, 0x01#8)])) fun t =>
      t.mem.readLE 0x2004 4 == 0x80000000 && six t == (false, true, true, true, false, true)) = true := by decide

/-- E29. -/
theorem test_addw_reg :
    (after (step (cpu [0x66#8, 0x03#8, 0x57#8, 0x04#8] { g0 with edi := 0x2000#32, edx := 0x1234FFFF#32 } f0 [(0x2004, 0x01#8)])) fun t =>
      t.gpr.edx == 0x12340000#32 && six t == (true, false, true, false, true, true)) = true := by decide

/-- Q1. -/
theorem test_addl_misaligned :
    (after (step (cpu [0x83#8, 0x05#8, 0x01#8, 0x20#8, 0x00#8, 0x00#8, 0x01#8] g0 f0 [(0x2001, 0xFF#8), (0x2002, 0xFF#8), (0x2003, 0xFF#8), (0x2004, 0xFF#8), (0x2005, 0x55#8)])) fun t =>
      t.mem.readLE 0x2001 4 == 0 && t.mem.read 0x2005 == 0x55#8 && t.flags.cf && t.flags.zf) = true := by decide

/-- E31. -/
theorem test_adcb :
    (after (step (cpu [0x12#8, 0x4E#8, 0x01#8] { g0 with esi := 0x2000#32, ecx := 0xFF#32 } { f0 with cf := true } [])) fun t =>
      t.gpr.ecx == 0#32 && six t == (true, false, true, false, true, true)) = true := by decide

/-- E32. -/
theorem test_adcw :
    (after (step (cpu [0x66#8, 0x13#8, 0x57#8, 0x04#8] { g0 with edi := 0x2000#32, edx := 0x1#32 } { f0 with cf := true } [(0x2004, 0x01#8)])) fun t =>
      t.gpr.edx == 3#32 && six t == (false, false, false, false, false, true)) = true := by decide

/-- E33. -/
theorem test_adcl :
    (after (step (cpu [0x11#8, 0x57#8, 0x04#8] { g0 with edi := 0x2000#32, edx := 0x80000000#32 } f0 [(0x2007, 0x80#8)])) fun t =>
      t.mem.readLE 0x2004 4 == 0 && six t == (true, true, false, false, true, true)) = true := by decide

/-- E34. -/
theorem test_subb :
    (after (step (cpu [0x80#8, 0x6E#8, 0x01#8, 0x82#8] { g0 with esi := 0x2000#32 } f0 [(0x2001, 0x02#8)])) fun t =>
      t.mem.read 0x2001 == 0x80#8 && six t == (true, true, false, true, false, false)) = true := by decide

/-- E35. -/
theorem test_subw :
    (after (step (cpu [0x66#8, 0x81#8, 0x6F#8, 0x04#8, 0xD2#8, 0x04#8] { g0 with edi := 0x2000#32 } f0 [(0x2004, 0xD2#8), (0x2005, 0x04#8)])) fun t =>
      t.mem.readLE 0x2004 2 == 0 && six t == (false, false, false, false, true, true)) = true := by decide

/-- E36. -/
theorem test_subl :
    (after (step (cpu [0x29#8, 0x57#8, 0x04#8] { g0 with edi := 0x2000#32, edx := 0x1#32 } f0 [(0x2007, 0x80#8)])) fun t =>
      t.mem.readLE 0x2004 4 == 0x7FFFFFFF && six t == (false, true, true, false, false, true)) = true := by decide

/-- E37. -/
theorem test_sbbb :
    (after (step (cpu [0x18#8, 0x4E#8, 0x01#8] { g0 with esi := 0x2000#32, ecx := 0x1#32 } { f0 with cf := true } [])) fun t =>
      t.mem.read 0x2001 == 0xFE#8 && six t == (true, false, true, true, false, false)) = true := by decide

/-- E38. -/
theorem test_sbbw :
    (after (step (cpu [0x66#8, 0x83#8, 0xD8#8, 0x82#8] g0 f0 [])) fun t =>
      t.gpr.eax == 0x7E#32 && six t == (true, false, true, false, false, true)) = true := by decide

/-- E39. -/
theorem test_sbbl :
    (after (step (cpu [0x81#8, 0x5F#8, 0x04#8, 0x4E#8, 0x61#8, 0xBC#8, 0x00#8] { g0 with edi := 0x2000#32 } { f0 with cf := true } [(0x2004, 0x4F#8), (0x2005, 0x61#8), (0x2006, 0xBC#8)])) fun t =>
      t.mem.readLE 0x2004 4 == 0 && six t == (false, false, false, false, true, true)) = true := by decide

/-- E40. -/
theorem test_cmpb :
    (after (step (cpu [0x3C#8, 0xFF#8] { g0 with eax := 0x0#32 } f0 [])) fun t =>
      t.gpr.eax == 0#32 && six t == (true, false, true, false, false, false)) = true := by decide

/-- E41. -/
theorem test_cmpw :
    (after (step (cpu [0x66#8, 0x39#8, 0x57#8, 0x04#8] { g0 with edi := 0x2000#32, edx := 0x1#32 } f0 [(0x2005, 0x80#8)])) fun t =>
      t.mem.readLE 0x2004 2 == 0x8000 && six t == (false, true, true, false, false, true)) = true := by decide

/-- E42. -/
theorem test_cmpl :
    (after (step (cpu [0x3B#8, 0x57#8, 0x04#8] { g0 with edi := 0x2000#32, edx := 0x3#32 } f0 [(0x2004, 0x05#8)])) fun t =>
      t.gpr.edx == 3#32 && six t == (true, false, true, true, false, false)) = true := by decide

/-- E43. -/
theorem test_incb :
    (after (step (cpu [0xFE#8, 0x46#8, 0x01#8] { g0 with esi := 0x2000#32 } f0 [(0x2001, 0xFF#8)])) fun t =>
      t.mem.read 0x2001 == 0#8 && six t == (false, false, true, false, true, true)) = true := by decide

/-- E44. -/
theorem test_incw :
    (after (step (cpu [0x66#8, 0x40#8] { g0 with eax := 0x7FFF#32 } { f0 with cf := true } [])) fun t =>
      t.gpr.eax == 0x8000#32 && six t == (true, true, true, true, false, true)) = true := by decide

/-- E45. -/
theorem test_incl :
    (after (step (cpu [0xFF#8, 0x47#8, 0x04#8] { g0 with edi := 0x2000#32 } f0 [])) fun t =>
      t.mem.readLE 0x2004 4 == 1 && six t == (false, false, false, false, false, false)) = true := by decide

/-- E46. -/
theorem test_decb :
    (after (step (cpu [0xFE#8, 0x4E#8, 0x01#8] { g0 with esi := 0x2000#32 } f0 [(0x2001, 0x01#8)])) fun t =>
      t.mem.read 0x2001 == 0#8 && six t == (false, false, false, false, true, true)) = true := by decide

/-- E47. -/
theorem test_decw :
    (after (step (cpu [0x66#8, 0x4B#8] { g0 with ebx := 0x99990000#32 } f0 [])) fun t =>
      t.gpr.ebx == 0x9999FFFF#32 && six t == (false, false, true, true, false, true)) = true := by decide

/-- E48. -/
theorem test_decl :
    (after (step (cpu [0xFF#8, 0x4F#8, 0x04#8] { g0 with edi := 0x2000#32 } f0 [(0x2007, 0x80#8)])) fun t =>
      t.mem.readLE 0x2004 4 == 0x7FFFFFFF && six t == (false, true, true, false, false, true)) = true := by decide

/-- E49. -/
theorem test_testb :
    (after (step (cpu [0xF6#8, 0x46#8, 0x01#8, 0xFF#8] { g0 with esi := 0x2000#32 } f0 [(0x2001, 0x80#8)])) fun t =>
      t.mem.read 0x2001 == 0x80#8 && five t == (false, false, true, false, false)) = true := by decide

/-- E50. -/
theorem test_testw :
    (after (step (cpu [0x66#8, 0x85#8, 0x57#8, 0x04#8] { g0 with edi := 0x2000#32, edx := 0xF0#32 } f0 [(0x2004, 0x0F#8), (0x2005, 0x0F#8)])) fun t =>
      five t == (false, false, false, true, true)) = true := by decide

/-- E51. -/
theorem test_testl :
    (after (step (cpu [0xF7#8, 0x47#8, 0x04#8, 0xCC#8, 0xDD#8, 0xEE#8, 0xFF#8] { g0 with edi := 0x2000#32 } f0 [(0x2004, 0xFF#8), (0x2005, 0xFF#8), (0x2006, 0xFF#8), (0x2007, 0xFF#8)])) fun t =>
      five t == (false, false, true, false, true)) = true := by decide

/-- E52. -/
theorem test_sarb :
    (after (step (cpu [0xC0#8, 0x7E#8, 0x01#8, 0xFD#8] { g0 with esi := 0x2000#32 } f0 [(0x2001, 0x80#8)])) fun t =>
      t.mem.read 0x2001 == 0xFF#8 && t.flags.cf && t.flags.sf && !t.flags.zf && t.flags.pf) = true := by decide

/-- C12; R193. -/
theorem test_sarw :
    (after (step (cpu [0x66#8, 0xD3#8, 0xFA#8] { g0 with ecx := 0x1#32, edx := 0x5555FFFD#32 } f0 [])) fun t =>
      t.gpr.edx == 0x5555FFFE#32 && five t == (true, false, true, false, false)) = true := by decide

/-- E53. -/
theorem test_shrw :
    (after (step (cpu [0x66#8, 0xD3#8, 0x6F#8, 0x04#8] { g0 with edi := 0x2000#32, ecx := 0x1#32 } f0 [(0x2004, 0x21#8), (0x2005, 0x84#8)])) fun t =>
      t.mem.readLE 0x2004 2 == 0x4210 && five t == (true, true, false, false, false)) = true := by decide

/-- E54. -/
theorem test_shll :
    (after (step (cpu [0xC1#8, 0x67#8, 0x04#8, 0xFD#8] { g0 with edi := 0x2000#32 } f0 [(0x2004, 0x0F#8)])) fun t =>
      t.mem.readLE 0x2004 4 == 0xE0000000 && t.flags.cf && t.flags.sf && !t.flags.zf && t.flags.pf) = true := by decide

/-- S7. -/
theorem test_shlb_zero_count :
    (after (step (cpu [0xC0#8, 0xE3#8, 0x20#8] { g0 with ebx := 0xFF#32 } { f0 with cf := true, of := true } [])) fun t =>
      t.gpr.ebx == 0xFF#32 && six t == (true, true, false, false, false, false)) = true := by decide

/-- E56. -/
theorem test_shldl :
    (after (step (cpu [0x0F#8, 0xA5#8, 0x57#8, 0x04#8] { g0 with edi := 0x2000#32, ecx := 0x8#32, edx := 0xAABBCCDD#32 } f0 [(0x2004, 0x44#8), (0x2005, 0x33#8), (0x2006, 0x22#8), (0x2007, 0x11#8)])) fun t =>
      t.mem.readLE 0x2004 4 == 0x223344AA && t.flags.cf && !t.flags.sf && !t.flags.zf && t.flags.pf) = true := by decide

/-- E58. -/
theorem test_shrdl :
    (after (step (cpu [0x0F#8, 0xAD#8, 0x57#8, 0x04#8] { g0 with edi := 0x2000#32, ecx := 0x8#32, edx := 0xAABBCCDD#32 } f0 [(0x2004, 0x44#8), (0x2005, 0x33#8), (0x2006, 0x22#8), (0x2007, 0x11#8)])) fun t =>
      t.mem.readLE 0x2004 4 == 0xDD112233 && !t.flags.cf && t.flags.sf && !t.flags.zf && t.flags.pf) = true := by decide

/-- E59. -/
theorem test_notb :
    (after (step (cpu [0xF6#8, 0x56#8, 0x01#8] { g0 with esi := 0x2000#32 } { f0 with cf := true } [(0x2001, 0x5A#8)])) fun t =>
      t.mem.read 0x2001 == 0xA5#8 && six t == (true, false, false, false, false, false)) = true := by decide

/-- E62. -/
theorem test_negb :
    (after (step (cpu [0xF6#8, 0x5E#8, 0x01#8] { g0 with esi := 0x2000#32 } f0 [(0x2001, 0x01#8)])) fun t =>
      t.mem.read 0x2001 == 0xFF#8 && six t == (true, false, true, true, false, true)) = true := by decide

/-- E64. -/
theorem test_negl :
    (after (step (cpu [0xF7#8, 0x5F#8, 0x04#8] { g0 with edi := 0x2000#32 } f0 [(0x2007, 0x80#8)])) fun t =>
      t.mem.readLE 0x2004 4 == 0x80000000 && six t == (true, true, false, true, false, true)) = true := by decide

/-- E67. -/
theorem test_andb :
    (after (step (cpu [0x20#8, 0x4E#8, 0x01#8] { g0 with esi := 0x2000#32, ecx := 0xF#32 } f0 [(0x2001, 0x3C#8)])) fun t =>
      t.mem.read 0x2001 == 0x0C#8 && five t == (false, false, false, false, true)) = true := by decide

/-- E68. -/
theorem test_andw :
    (after (step (cpu [0x66#8, 0x25#8, 0xEE#8, 0xFF#8] { g0 with eax := 0x1234#32 } f0 [])) fun t =>
      t.gpr.eax == 0x1224#32 && five t == (false, false, false, false, true)) = true := by decide

/-- E71. -/
theorem test_orw :
    (after (step (cpu [0x66#8, 0x83#8, 0x4F#8, 0x04#8, 0x83#8] { g0 with edi := 0x2000#32 } f0 [(0x2004, 0x40#8)])) fun t =>
      t.mem.readLE 0x2004 2 == 0xFFC3 && five t == (false, false, true, false, true)) = true := by decide

/-- E75. -/
theorem test_xorl :
    (after (step (cpu [0x31#8, 0x57#8, 0x04#8] { g0 with edi := 0x2000#32, edx := 0xFFFFFFFF#32 } f0 [(0x2004, 0x78#8), (0x2005, 0x56#8), (0x2006, 0x34#8), (0x2007, 0x12#8)])) fun t =>
      t.mem.readLE 0x2004 4 == 0xEDCBA987 && five t == (false, false, true, false, true)) = true := by decide

/-- B7. -/
theorem test_boundw :
    (after (step (cpu [0x66#8, 0x62#8, 0x0B#8] { g0 with ebx := 0x2000#32, ecx := 0x12348000#32 } f0 [(0x2001, 0x80#8), (0x2002, 0xFF#8), (0x2003, 0x7F#8)])) fun t =>
      t.gpr.ecx == 0x12348000#32 && t.pc == 0x1003#32) = true := by decide

/-- E66. -/
theorem test_boundl :
    (faults (step (cpu [0x62#8, 0x47#8, 0x04#8] { g0 with edi := 0x2000#32, eax := 0xA#32 } f0 [(0x2008, 0x09#8)])) (.boundRange 0x1000#32)) = true := by decide

/-- E76. -/
theorem test_imulb :
    (after (step (cpu [0xF6#8, 0x6E#8, 0x01#8] { g0 with esi := 0x2000#32, eax := 0x40#32 } f0 [(0x2001, 0x02#8)])) fun t =>
      t.gpr.eax == 0x80#32 && t.flags.cf && t.flags.of) = true := by decide

/-- E77. -/
theorem test_imulw :
    (after (step (cpu [0x66#8, 0x6B#8, 0x57#8, 0x04#8, 0x82#8] { g0 with edi := 0x2000#32 } f0 [(0x2005, 0x04#8)])) fun t =>
      t.gpr.edx == 0x0800#32 && t.flags.cf && t.flags.of) = true := by decide

/-- E78. -/
theorem test_imull :
    (after (step (cpu [0x69#8, 0x57#8, 0x04#8, 0x4E#8, 0x61#8, 0xBC#8, 0x00#8] { g0 with edi := 0x2000#32 } f0 [(0x2004, 0x02#8)])) fun t =>
      t.gpr.edx == 0x0178C29C#32 && !t.flags.cf && !t.flags.of) = true := by decide

/-- E79. -/
theorem test_mulb :
    (after (step (cpu [0xF6#8, 0x66#8, 0x01#8] { g0 with esi := 0x2000#32, eax := 0x10#32 } f0 [(0x2001, 0x10#8)])) fun t =>
      t.gpr.eax == 0x100#32 && t.flags.cf && t.flags.of) = true := by decide

/-- E80. -/
theorem test_mulw :
    (after (step (cpu [0x66#8, 0xF7#8, 0x67#8, 0x04#8] { g0 with edi := 0x2000#32, eax := 0x100#32 } f0 [(0x2005, 0x01#8)])) fun t =>
      t.gpr.edx == 1#32 && t.gpr.eax == 0#32 && t.flags.cf && t.flags.of) = true := by decide

/-- E81. -/
theorem test_mull :
    (after (step (cpu [0xF7#8, 0x67#8, 0x01#8] { g0 with edi := 0x2000#32, eax := 0xFFFFFFFF#32 } f0 [(0x2001, 0x02#8)])) fun t =>
      t.gpr.edx == 1#32 && t.gpr.eax == 0xFFFFFFFE#32 && t.flags.cf && t.flags.of) = true := by decide

/-- V6. -/
theorem test_divb :
    (after (step (cpu [0xF6#8, 0xF1#8] { g0 with eax := 0x64#32, ecx := 0x7#32 } f0 [])) fun t =>
      t.gpr.eax == 0x020E#32) = true := by decide

/-- V16. -/
theorem test_divl :
    (after (step (cpu [0xF7#8, 0xF3#8] { g0 with eax := 0x7#32, ebx := 0x2#32 } f0 [])) fun t =>
      t.gpr.eax == 3#32 && t.gpr.edx == 1#32) = true := by decide

/-- V12. -/
theorem test_divw :
    (faults (step (cpu [0x66#8, 0xF7#8, 0xF3#8] { g0 with edx := 0x2#32, ebx := 0x2#32 } f0 [])) (.divideError 0x1000#32)) = true := by decide

/-- G18. -/
theorem test_ldsl :
    (after (step (cpu [0xC5#8, 0x1B#8] { g0 with ebx := 0x2000#32 } f0 [(0x2001, 0x20#8), (0x2002, 0x00#8), (0x2003, 0x00#8), (0x2004, 0x23#8)])) fun t =>
      t.gpr.ebx == 0x2000#32 && t.seg.ds == 0x23#16) = true := by decide

/-- G14. -/
theorem test_lesl :
    (after (step (cpu [0xC4#8, 0x3B#8] { g0 with ebx := 0x2000#32 } f0 [(0x2000, 0x78#8), (0x2001, 0x56#8), (0x2002, 0x34#8), (0x2003, 0x12#8), (0x2004, 0x1B#8)])) fun t =>
      t.gpr.edi == 0x12345678#32 && t.seg.es == 0x1B#16) = true := by decide

/-- G15. -/
theorem test_lfsw :
    (after (step (cpu [0x66#8, 0x0F#8, 0xB4#8, 0x03#8] { g0 with ebx := 0x2000#32, eax := 0xAAAAAAAA#32 } f0 [(0x2000, 0x34#8), (0x2001, 0x12#8), (0x2002, 0x2B#8)])) fun t =>
      t.gpr.eax == 0xAAAA1234#32 && t.seg.fs == 0x2B#16) = true := by decide

/-- G16. -/
theorem test_lgsl :
    (after (step (cpu [0x0F#8, 0xB5#8, 0x4E#8, 0x08#8] { g0 with esi := 0x2000#32 } f0 [(0x200B, 0x80#8), (0x200C, 0x33#8)])) fun t =>
      t.gpr.ecx == 0x80000000#32 && t.seg.gs == 0x33#16) = true := by decide

/-- G17. -/
theorem test_lssl :
    (after (step (cpu [0x0F#8, 0xB2#8, 0x20#8] { g0 with eax := 0x2000#32 } f0 [(0x2001, 0xF0#8), (0x2002, 0x0F#8), (0x2003, 0x00#8), (0x2004, 0x10#8)])) fun t =>
      t.gpr.esp == 0x000FF000#32 && t.seg.ss == 0x10#16 && t.shadow) = true := by decide

/-- E3. -/
theorem test_popw_mem :
    (after (step (cpu [0x66#8, 0x8F#8, 0x47#8, 0x04#8] { g0 with edi := 0x2000#32 } f0 [(0x8000, 0xEF#8), (0x8001, 0xBE#8)])) fun t =>
      t.mem.readLE 0x2004 2 == 0xBEEF && t.gpr.esp == 0x8002#32) = true := by decide

/-- G5. -/
theorem test_popw_sp :
    (after (step (cpu [0x66#8, 0x5C#8] { g0 with esp := 0x18000#32 } f0 [(0x18000, 0x34#8), (0x18001, 0x12#8)])) fun t =>
      t.gpr.esp == 0x00011234#32) = true := by decide

/-- G3. -/
theorem test_popl_esp_base :
    (after (step (cpu [0x8F#8, 0x44#8, 0x24#8, 0x04#8] g0 f0 [(0x8000, 0xDD#8), (0x8001, 0xCC#8), (0x8002, 0xBB#8), (0x8003, 0xAA#8)])) fun t =>
      t.gpr.esp == 0x8004#32 && t.mem.readLE 0x8008 4 == 0xAABBCCDD) = true := by decide

/-- G11. -/
theorem test_popl_ds :
    (after (step (cpu [0x1F#8] g0 f0 [(0x8000, 0x23#8), (0x8001, 0x00#8), (0x8002, 0xAD#8), (0x8003, 0xDE#8)])) fun t =>
      t.seg.ds == 0x23#16 && t.gpr.esp == 0x8004#32) = true := by decide

/-- R107, R273. -/
theorem test_popl_ss_null :
    (faults (step (cpu [0x17#8] g0 f0 [])) (.segmentLoad 0#16 0x1000#32)) = true := by decide

/-- G1. -/
theorem test_pushl_esp :
    (after (step (cpu [0x54#8] g0 f0 [])) fun t =>
      t.gpr.esp == 0x7FFC#32 && t.mem.readLE 0x7FFC 4 == 0x8000) = true := by decide

/-- G4. -/
theorem test_pushl_mem :
    (after (step (cpu [0xFF#8, 0x74#8, 0x24#8, 0x04#8] g0 f0 [(0x8004, 0x04#8), (0x8005, 0x03#8), (0x8006, 0x02#8), (0x8007, 0x01#8)])) fun t =>
      t.mem.readLE 0x7FFC 4 == 0x01020304) = true := by decide

/-- E5. -/
theorem test_pushw_imm8 :
    (after (step (cpu [0x66#8, 0x6A#8, 0x82#8] g0 f0 [])) fun t =>
      t.gpr.esp == 0x7FFE#32 && t.mem.readLE 0x7FFE 2 == 0xFF82) = true := by decide

/-- G9. -/
theorem test_pushl_past_top :
    (refuses (step (cpu [0x50#8] { g0 with esp := 0x2#32 } f0 [])) .accessPastTop) = true := by decide

/-- E9. -/
theorem test_inb_imm :
    (after (step (answers [0x5A#32] (cpu [0xE4#8, 0xFF#8] { g0 with eax := 0x11223344#32 } f0 []))) fun t =>
      t.gpr.eax == 0x1122335A#32 && t.portLog == [⟨.read, 0xFF#16, 1, 0x5A#32⟩]) = true := by decide

/-- E10. -/
theorem test_inw_dx :
    (after (step (answers [0xBEEF#32] (cpu [0x66#8, 0xED#8] { g0 with edx := 0xFFFF03F8#32 } f0 []))) fun t =>
      t.gpr.eax == 0xBEEF#32 && t.portLog == [⟨.read, 0x3F8#16, 2, 0xBEEF#32⟩]) = true := by decide

/-- O11. -/
theorem test_inb_denied :
    (faults (step (atCpl 3#2 (cpu [0xE4#8, 0x60#8] g0 f0 []))) (.ioPermission 0x60#16 0x1000#32)) = true := by decide

/-- O3. -/
theorem test_outb_imm :
    (after (step (cpu [0xE6#8, 0x80#8] { g0 with eax := 0x123456AB#32 } f0 [])) fun t =>
      t.portLog == [⟨.write, 0x80#16, 1, 0xAB#32⟩]) = true := by decide

/-- E12. -/
theorem test_outw_imm :
    (after (step (cpu [0x66#8, 0xE7#8, 0xFF#8] { g0 with eax := 0x12345678#32 } f0 [])) fun t =>
      t.portLog == [⟨.write, 0xFF#16, 2, 0x5678#32⟩]) = true := by decide

/-- O4. -/
theorem test_outw_past_top :
    (refuses (step (cpu [0x66#8, 0xEF#8] { g0 with edx := 0xFFFF#32, eax := 0xBEEF#32 } f0 [])) .portPastTop) = true := by decide

/-- O5. -/
theorem test_insw :
    (after (step (answers [0xA55A#32] (cpu [0x66#8, 0x6D#8] { g0 with edi := 0x3000#32, edx := 0x1F0#32 } { f0 with df := true } []))) fun t =>
      t.mem.readLE 0x3000 2 == 0xA55A && t.gpr.edi == 0x2FFE#32) = true := by decide

/-- O6. -/
theorem test_insb_top :
    (after (step (answers [0x77#32] (cpu [0x6C#8] { g0 with edi := 0xFFFFFFFF#32 } f0 []))) fun t =>
      t.mem.read 0xFFFFFFFF == 0x77#8 && t.gpr.edi == 0#32) = true := by decide

/-- E14. -/
theorem test_outsl :
    (after (step (cpu [0x6F#8] { g0 with esi := 0x4000#32, edx := 0x170#32 } f0 [(0x4000, 0x78#8), (0x4001, 0x56#8), (0x4002, 0x34#8), (0x4003, 0x12#8)])) fun t =>
      t.portLog == [⟨.write, 0x170#16, 4, 0x12345678#32⟩] && t.gpr.esi == 0x4004#32) = true := by decide

/-- O8. -/
theorem test_rep_outsw_item :
    (after (step (cpu [0xF3#8, 0x66#8, 0x6F#8] { g0 with esi := 0x4000#32, edx := 0x1F0#32, ecx := 0x2#32 } f0 [(0x4000, 0x01#8), (0x4001, 0x02#8), (0x4002, 0x03#8), (0x4003, 0x04#8)])) fun t =>
      t.portLog == [⟨.write, 0x1F0#16, 2, 0x0201#32⟩] && t.gpr.esi == 0x4002#32 && t.gpr.ecx == 1#32 && t.pc == 0x1000#32) = true := by decide

/-- O9. -/
theorem test_rep_insl_none :
    (after (step (cpu [0xF3#8, 0x6D#8] { g0 with edi := 0x3000#32 } f0 [])) fun t =>
      t.portLog == [] && t.gpr.edi == 0x3000#32 && t.pc == 0x1002#32) = true := by decide

/-- F3. -/
theorem test_sahf :
    (after (step (cpu [0x9E#8] { g0 with eax := 0xFF00#32 } { f0 with of := true, df := true } [])) fun t =>
      six t == (true, true, true, true, true, true) && t.flags.df) = true := by decide

/-- E18. -/
theorem test_popfl :
    (after (step (cpu [0x9D#8] g0 f0 [(0x8000, 0xD7#8), (0x8001, 0x0A#8)])) fun t =>
      six t == (true, true, true, true, true, true) && t.flags.intf && !t.flags.df && t.flags.iopl == 0#2 && t.gpr.esp == 0x8004#32) = true := by decide

/-- F8. -/
theorem test_popfl_tf :
    (refuses (step (cpu [0x9D#8] g0 f0 [(0x8001, 0x01#8)])) .popfSetsTF) = true := by decide

/-- F9. -/
theorem test_popfl_ac :
    (refuses (step (cpu [0x9D#8] g0 f0 [(0x8002, 0x04#8)])) .popfSetsAC) = true := by decide

/-- F10. -/
theorem test_popfw :
    (after (step (cpu [0x66#8, 0x9D#8] g0 { f0 with of := true, df := true } [(0x8000, 0x01#8)])) fun t =>
      six t == (true, false, false, false, false, false) && !t.flags.df && t.gpr.esp == 0x8002#32) = true := by decide

/-- E21. -/
theorem test_cmc :
    (after (step (cpu [0xF5#8] g0 { f0 with cf := true } [])) fun t =>
      !t.flags.cf) = true := by decide

/-- F15. -/
theorem test_cli :
    (after (step (cpu [0xFA#8] g0 { f0 with intf := true } [])) fun t =>
      !t.flags.intf) = true := by decide

/-- F16. -/
theorem test_sti_denied :
    (faults (step (atCpl 1#2 (cpu [0xFB#8] g0 f0 []))) (.generalProtection 0x1000#32)) = true := by decide

/-- J4. -/
theorem test_jmp_back :
    (after (step (cpu [0xEB#8, 0x80#8] g0 f0 [])) fun t =>
      t.pc == 0x0F82#32) = true := by decide

/-- J6. -/
theorem test_jz_taken :
    (after (step (cpu [0x74#8, 0x10#8] g0 { f0 with zf := true } [])) fun t =>
      t.pc == 0x1012#32) = true := by decide

/-- J8. -/
theorem test_jl_taken :
    (after (step (cpu [0x0F#8, 0x8C#8, 0xF0#8, 0xFF#8, 0xFF#8, 0xFF#8] g0 { f0 with sf := true } [])) fun t =>
      t.pc == 0x0FF6#32) = true := by decide

/-- J9. -/
theorem test_jl_not_taken :
    (after (step (cpu [0x0F#8, 0x8C#8, 0xF0#8, 0xFF#8, 0xFF#8, 0xFF#8] g0 { f0 with sf := true, of := true } [])) fun t =>
      t.pc == 0x1006#32) = true := by decide

/-- Q4. -/
theorem test_scaled_index :
    (after (step (cpu [0x03#8, 0x04#8, 0xB3#8] { g0 with ebx := 0x2000#32, esi := 0x3#32, eax := 0x1#32 } f0 [(0x200C, 0x05#8)])) fun t =>
      t.gpr.eax == 6#32) = true := by decide

/-- Q7. -/
theorem test_address_wraps :
    (after (step (cpu [0xF7#8, 0x90#8, 0xFF#8, 0xFF#8, 0xFF#8, 0x7F#8] { g0 with eax := 0x80000002#32 } f0 [(0x1, 0xFF#8)])) fun t =>
      t.mem.readLE 1 4 == 0xFFFFFF00) = true := by decide

/-- Q10. -/
theorem test_inc_not_admitted :
    (faults (step (readOnly 0x2004 (cpu [0xFF#8, 0x47#8, 0x04#8] { g0 with edi := 0x2000#32 } f0 []))) (.memoryAccess 0x1000#32)) = true := by decide

/-- X-R11. -/
theorem test_store_into_text :
    (refuses (step (cpu [0x01#8, 0x03#8] { g0 with ebx := 0x1001#32 } f0 [])) .storeIntoText) = true := by decide

/-- O13, D19: refused without and with an override. -/
theorem test_outsl_other_base :
    (refuses (step (extraBase 0x1000#32 (cpu [0x6F#8] { g0 with esi := 0x4000#32 } f0 []))) .outsSegment &&
      refuses (step (extraBase 0x1000#32 (cpu [0x2E#8, 0x6F#8] { g0 with esi := 0x4000#32 } f0 []))) .outsSegment) = true := by
  decide

/-- E55, D24: a 16-bit double shift by 29 runs. -/
theorem test_shldw_runs :
    (after (step (cpu [0x66#8, 0x0F#8, 0xA4#8, 0x57#8, 0x04#8, 0xFD#8] { g0 with edi := 0x2000#32 } f0 [])) fun t =>
      t.pc == 0x1006#32) = true := by decide

/-- G10: the low half of the long pushed for `%cs` is the selector. -/
theorem test_pushl_cs :
    (after (step (cpu [0x0E#8] g0 f0 [])) fun t => t.gpr.esp == 0x7FFC#32) = true ∧
      ∀ s : State, (segmentImage .cs s).setWidth 16 = s.seg.cs := by
  refine ⟨by decide, fun s => ?_⟩
  apply BitVec.eq_of_getLsbD_eq
  intro i hi
  rw [BitVec.getLsbD_setWidth, segmentImage, BitVec.getLsbD_append]
  simp [hi, SegRegs.get]

/-- F2, E16: `SF:ZF:xx:AF:xx:PF:xx:CF`. -/
theorem test_lahf_byte (s : State) :
    (lahfByte s).getLsbD 7 = s.flags.sf ∧ (lahfByte s).getLsbD 6 = s.flags.zf ∧
      (lahfByte s).getLsbD 4 = s.flags.af ∧ (lahfByte s).getLsbD 2 = s.flags.pf ∧
      (lahfByte s).getLsbD 0 = s.flags.cf := by simp [lahfByte, bitAt]

/-- F6, E19, E20: where `pushf` puts CF, ZF, SF, IF, DF, OF, NT, and zeros at RF and VM. -/
theorem test_pushf_image (s : State) :
    (flagImage s).getLsbD 0 = s.flags.cf ∧ (flagImage s).getLsbD 6 = s.flags.zf ∧
      (flagImage s).getLsbD 7 = s.flags.sf ∧ (flagImage s).getLsbD 9 = s.flags.intf ∧
      (flagImage s).getLsbD 10 = s.flags.df ∧ (flagImage s).getLsbD 11 = s.flags.of ∧
      (flagImage s).getLsbD 14 = s.flags.nt ∧ (flagImage s).getLsbD 16 = false ∧
      (flagImage s).getLsbD 17 = false := by simp [flagImage, bitAt]

/-! ### Witnesses: for each statement with hypotheses, states and operands that meet all of them, clause by clause -/

def okB {α : Type} (x : Except Stop α) : Bool :=
  match x with
  | .ok _ => true
  | .error _ => false

def nextB (o : Host.Outcome State Fault Refusal) : Bool :=
  match o with
  | .next _ => true
  | _ => false

def writableB (w : Nat) (l : Loc) (s : State) : Bool :=
  match l with
  | .part _ => true
  | .mem a => okB (checkAccess .write a (w / 8) s)

theorem ok_of {α : Type} {x : Except Stop α} (h : okB x = true) : ∃ a, x = .ok a := by
  cases x with
  | ok a => exact ⟨a, rfl⟩
  | error e => cases h

theorem next_of {o : Host.Outcome State Fault Refusal} (h : nextB o = true) : ∃ t, o = .next t := by
  cases o with
  | next t => exact ⟨t, rfl⟩
  | fault f => cases h
  | refused r => cases h

theorem fault_of {o : Host.Outcome State Fault Refusal} {f : Fault} (h : faults o f = true) : o = .fault f := by
  cases o <;> simp_all [faults]

theorem refused_of {o : Host.Outcome State Fault Refusal} {r : Refusal} (h : refuses o r = true) : o = .refused r := by
  cases o <;> simp_all [refuses]

theorem canRead_of {a : Word} {n : Nat} {s : State} (h : okB (checkAccess .read a n s) = true) : s.canRead a n := by
  obtain ⟨u, hu⟩ := ok_of h; exact (checkAccess_read_ok s a n u).1 hu

theorem canWrite_of {a : Word} {n : Nat} {s : State} (h : okB (checkAccess .write a n s) = true) : s.canWrite a n := by
  obtain ⟨u, hu⟩ := ok_of h; exact (checkAccess_write_ok s a n u).1 hu

theorem writable_of {w : Nat} {l : Loc} {s : State} (h : writableB w l s = true) : l.writable w s := by
  cases l with
  | part p => trivial
  | mem a => exact canWrite_of h

/-- A launch with the data of these witnesses: `%edi` and `%ebx` at data, `%eax` and `%ecx` with values. -/
def ws : State :=
  cpu [0x01#8, 0x47#8, 0x04#8] { g0 with edi := 0x2000#32, ebx := 0x2000#32, eax := 0x7FFFFFFF#32, ecx := 0x41#32 } f0
    [(0x2000, 0x80#8), (0x2004, 0xFF#8), (0x2005, 0x7F#8), (0x8000, 0x23#8)]

def md : MemOp := { seg := none, base := some .edi, index := none, disp := 4#32 }

/-- The last long of the address space. -/
def mtop : MemOp := { seg := none, base := none, index := none, disp := 0xFFFFFFFC#32 }

/-- Ports denied, `%ss` holding a null selector at the top of the stack, one read-only and one unreadable long. -/
def strict : State :=
  { ws with cpl := 3#2, gpr := { ws.gpr with esp := 0x9000#32 }
            plat := { ws.plat with noWrite := [⟨0x2004, 4⟩, ⟨0x7FF8, 4⟩], noRead := [⟨0x3000, 4⟩] } }

/-- A long that may not be read in `strict`. -/
def mno : MemOp := { seg := none, base := none, index := none, disp := 0x3000#32 }

/-- A state whose stack slots may be neither read nor written. -/
def noStack : State := { ws with plat := { ws.plat with noRead := [⟨0x7FFC, 8⟩], noWrite := [⟨0x7FFC, 8⟩] } }

/-- The premises of `updates`: source and destination readable, destination writable. -/
def meetsUpdates (w : Nat) (x : Src w × RM Part) (s : State) : Prop :=
  ∃ v d, readSrc x.1 s = .ok v ∧ readRM w x.2 s = .ok d ∧ (locate s x.2).writable w s

theorem meetsUpdates_of {w : Nat} {x : Src w × RM Part} {s : State}
    (h : (okB (readSrc x.1 s) && okB (readRM w x.2 s) && writableB w (locate s x.2) s) = true) : meetsUpdates w x s := by
  simp only [Bool.and_eq_true] at h
  obtain ⟨⟨h1, h2⟩, h3⟩ := h
  obtain ⟨v, hv⟩ := ok_of h1
  obtain ⟨d, hd⟩ := ok_of h2
  exact ⟨v, d, hv, hd, writable_of h3⟩

/-- The premises of `modifies`, and of `shifts` beside the count. -/
def meetsModifies (w : Nat) (x : RM Part) (s : State) : Prop := ∃ d, readRM w x s = .ok d ∧ (locate s x).writable w s

theorem meetsModifies_of {w : Nat} {x : RM Part} {s : State}
    (h : (okB (readRM w x s) && writableB w (locate s x) s) = true) : meetsModifies w x s := by
  simp only [Bool.and_eq_true] at h
  obtain ⟨d, hd⟩ := ok_of h.1
  exact ⟨d, hd, writable_of h.2⟩

theorem witness_DecodeOfEncodeIsTheInstruction :
    WellFormed (.addl (.regRm .ebx (.mem mtop))) ∧ WellFormed (.popl (.sreg .gs)) ∧
      WellFormed (.subw (.imm8Rm 0x80#8 (.mem { seg := some .fs, base := some .esp, index := some (.ebp, .s8), disp := 0xFFFFFF80#32 }))) := by
  decide

theorem witness_DecodedInstructionIsWellFormed :
    decode [0x64#8, 0x03#8, 0x45#8, 0xFC#8, 0xAA#8] =
      .ok (.addl (.rmReg (.mem { seg := some .fs, base := some .ebp, index := none, disp := 0xFFFFFFFC#32 }) .eax), 4) := by
  decide

/-- An instruction whose last byte lies at `pc = 2^32 - 1`. -/
def atTop : State := launch 0xFFFFFFFE#32 [0x04#8, 0x82#8]

theorem witness_StepRunsDecodedInstruction :
    ended atTop = false ∧ decode (fetchBytes atTop) = .ok (.addb (.immAcc 0x82#8), 2) ∧
      atTop.pc.toNat + 2 ≤ addressSpace := by decide

theorem witness_StepRunsEncodedInstruction :
    ended ws = false ∧ WellFormed (.addl (.regRm .eax (.mem md))) ∧ textHolds ws (encode (.addl (.regRm .eax (.mem md)))) ∧
      ws.pc.toNat + (encode (.addl (.regRm .eax (.mem md)))).length ≤ addressSpace := by
  refine ⟨by decide, by decide, ?_, by decide⟩
  unfold textHolds
  decide

/-- `pc = 2^32 - 1` with a two-byte instruction, in a code segment based at `0x1000`. -/
def pastTop : State :=
  let s := launch 0xFFFFFFFF#32 []
  loadText [0x04#8, 0x82#8] { s with plat := { s.plat with segBase := { s.plat.segBase with cs := 0x1000#32 } } }

theorem witness_StepWhereNothingRuns :
    (launch 0x1000#32 []).plat.endPc = some (launch 0x1000#32 []).pc ∧
      (ended (launch 0x1000#32 [0x0F#8]) = false ∧ decode (fetchBytes (launch 0x1000#32 [0x0F#8])) = .error .truncated) ∧
      (ended (launch 0x1000#32 [0xF4#8]) = false ∧ decode (fetchBytes (launch 0x1000#32 [0xF4#8])) = .error .unknownOpcode) ∧
      (ended pastTop = false ∧ decode (fetchBytes pastTop) = .ok (.addb (.immAcc 0x82#8), 2) ∧
        addressSpace < pastTop.pc.toNat + 2) := by decide

theorem witness_LaunchPremisesKept : ws.Launched ∧ ∃ t, step ws = .next t :=
  ⟨⟨⟨by decide, by decide, by decide, by decide, by decide, by decide⟩, by decide⟩, next_of (by decide)⟩

theorem witness_SystemStateNeverChanges : ∃ t, step ws = .next t := next_of (by decide)

theorem witness_ProgramTextNeverChanges : (∃ t, step ws = .next t) ∧ ws.plat.text.holds 0x1002 = true :=
  ⟨next_of (by decide), by decide⟩

theorem witness_PortHistoryOnlyGrows :
    (∃ t, exec (.outb (.imm8 0x80#8)) ws = .next t) ∧ (∃ t, exec .cmc ws = .next t) ∧ isPortAccess .cmc = false :=
  ⟨next_of (by decide), next_of (by decide), by decide⟩

theorem witness_FaultsComeFromTheirInstructions :
    exec (.boundl .eax { md with disp := 0#32 }) ws = .fault (.boundRange 0x1000#32) ∧
      exec (.divb (.reg .dl)) ws = .fault (.divideError 0x1000#32) ∧
      exec .sti strict = .fault (.generalProtection 0x1000#32) ∧
      exec (.inb (.imm8 0x60#8)) strict = .fault (.ioPermission 0x60#16 0x1000#32) ∧
      exec (.notl (.mem md)) strict = .fault (.memoryAccess 0x1000#32) ∧
      exec (.popl (.sreg .ss)) strict = .fault (.segmentLoad 0#16 0x1000#32) :=
  ⟨fault_of (by decide), fault_of (by decide), fault_of (by decide), fault_of (by decide), fault_of (by decide),
    fault_of (by decide)⟩

/-- A `popf` image with TF or AC at `%esp`, a port above the last word port, `%es` based elsewhere. -/
def odd (image : Memory) : State :=
  extraBase 0x1000#32 { ws with mem := image, gpr := { ws.gpr with edx := 0xFFFF#32 } }

theorem witness_RefusalsComeFromSituations :
    exec (.notl (.mem { mtop with disp := 0xFFFFFFFD#32 })) ws = .refused .accessPastTop ∧
      exec (.inw .dx) (odd []) = .refused .portPastTop ∧
      exec (.notb (.mem { mtop with disp := 0x1002#32 })) ws = .refused .storeIntoText ∧
      exec .popfw (odd [(0x8001, 1#8)]) = .refused .popfSetsTF ∧
      exec .popfl (odd [(0x8002, 4#8)]) = .refused .popfSetsAC ∧
      exec (.outsb none) (odd []) = .refused .outsSegment :=
  ⟨refused_of (by decide), refused_of (by decide), refused_of (by decide), refused_of (by decide),
    refused_of (by decide), refused_of (by decide)⟩

theorem witness_FlagsChangeByClass :
    (∃ t, exec (.incb (.mem md)) ws = .next t) ∧ (∃ t, exec (.notb (.mem md)) ws = .next t) ∧
      (∃ t, exec .popfl ws = .next t) ∧ ∃ t, exec .sahf ws = .next t :=
  ⟨next_of (by decide), next_of (by decide), next_of (by decide), next_of (by decide)⟩

/-- `popfl` at CPL 3 with IOPL 0 and an image of IF and IOPL 3. -/
def guarded : State := atCpl 3#2 (cpu [0x9D#8] g0 f0 [(0x8001, 0x32#8)])

theorem witness_PrivilegedFlagsAreGuarded :
    (∃ t, step guarded = .next t) ∧ guarded.cpl ≠ 0#2 ∧ guarded.flags.iopl.toNat < guarded.cpl.toNat :=
  ⟨next_of (by decide), by decide, by decide⟩

theorem witness_RegisterBitsFrame :
    (∃ t, exec (.addb (.immAcc 1#8)) ws = .next t) ∧ outsideParts (writtenParts (.addb (.immAcc 1#8))) .eax 8 := by
  refine ⟨next_of (by decide), ?_⟩
  unfold outsideParts
  decide

theorem witness_MemoryFrame :
    (∃ t, exec (.cmpl (.regRm .eax (.mem md))) ws = .next t) ∧ storedBytes (.cmpl (.regRm .eax (.mem md))) ws = none ∧
      (∃ t, exec (.pushl (.reg .eax)) ws = .next t) ∧
      storedBytes (.pushl (.reg .eax)) ws = some (0x7FFC#32, 4) ∧ outside 0x8000 0x7FFC#32 4 := by
  refine ⟨next_of (by decide), by decide, next_of (by decide), by decide, ?_⟩
  unfold outside
  decide

theorem witness_SegmentRegistersFrame :
    (∃ t, exec (.popl (.sreg .ds)) ws = .next t) ∧ SReg.es ∉ writtenSegments (.popl (.sreg .ds)) :=
  ⟨next_of (by decide), by decide⟩

theorem witness_PcAdvancesByLength :
    (∃ t, exec (.insb) ws = .next t) ∧ isJump .insb = false ∧ isRepeated .insb = false ∧
      (∃ t, exec .rep_insb { ws with gpr := { ws.gpr with ecx := 1#32 } } = .next t) ∧ isJump .rep_insb = false :=
  ⟨next_of (by decide), rfl, rfl, next_of (by decide), rfl⟩

theorem witness_InterruptShadowRule :
    (∃ t, exec .sti ws = .next t) ∧ isRepeated .sti = false ∧ (∃ t, exec (.popl (.sreg .ss)) ws = .next t) ∧
      ∃ t, exec (.popl (.sreg .ds)) ws = .next t :=
  ⟨next_of (by decide), rfl, next_of (by decide), next_of (by decide)⟩

theorem witness_AddAndAdcResult :
    (meetsUpdates 8 (aluOperands Reg8.part (.regRm .cl (.mem md))) ws ∧
      meetsUpdates 16 (aluOperands Reg16.part (.rmReg (.mem md) .dx)) ws ∧
      meetsUpdates 32 (aluOperands Reg32.part (.imm8Rm 0x80#8 (.mem mtop))) ws) ∧
      sourceDenied (aluOperands (n := 32) Reg32.part (.rmReg (.mem mno) .eax)).1 strict ∧
      operandDenied .read 16 (aluOperands (n := 16) Reg16.part (.immRm 1#16 (.mem mno))).2 strict ∧
      operandDenied .write 8 (aluOperands (n := 8) Reg8.part (.regRm .al (.mem md))).2 strict :=
  ⟨⟨meetsUpdates_of (by decide), meetsUpdates_of (by decide), meetsUpdates_of (by decide)⟩, ⟨_, rfl, _, rfl, by decide, by decide⟩, ⟨_, rfl, by decide, by decide⟩, ⟨_, rfl, by decide, by decide⟩⟩

theorem witness_SubAndSbbResult :
    (meetsUpdates 8 (aluOperands Reg8.part (.immAcc 1#8)) ws ∧
      meetsUpdates 16 (aluOperands Reg16.part (.immRm 0x8000#16 (.mem md))) ws ∧
      meetsUpdates 32 (aluOperands Reg32.part (.regRm .esp (.reg .esp))) ws) ∧
      sourceDenied (aluOperands (n := 32) Reg32.part (.rmReg (.mem mno) .eax)).1 strict ∧
      operandDenied .read 16 (aluOperands (n := 16) Reg16.part (.immRm 1#16 (.mem mno))).2 strict ∧
      operandDenied .write 8 (aluOperands (n := 8) Reg8.part (.regRm .al (.mem md))).2 strict :=
  ⟨⟨meetsUpdates_of (by decide), meetsUpdates_of (by decide), meetsUpdates_of (by decide)⟩, ⟨_, rfl, _, rfl, by decide, by decide⟩, ⟨_, rfl, by decide, by decide⟩, ⟨_, rfl, by decide, by decide⟩⟩

theorem witness_LogicResult :
    (meetsUpdates 8 (aluOperands Reg8.part (.rmReg (.mem md) .ah)) ws ∧
      meetsUpdates 16 (aluOperands Reg16.part (.immAcc 0xFFEE#16)) ws ∧
      meetsUpdates 32 (aluOperands Reg32.part (.regRm .ecx (.mem md))) ws) ∧
      sourceDenied (aluOperands (n := 32) Reg32.part (.rmReg (.mem mno) .eax)).1 strict ∧
      operandDenied .read 16 (aluOperands (n := 16) Reg16.part (.immRm 1#16 (.mem mno))).2 strict ∧
      operandDenied .write 8 (aluOperands (n := 8) Reg8.part (.regRm .al (.mem md))).2 strict :=
  ⟨⟨meetsUpdates_of (by decide), meetsUpdates_of (by decide), meetsUpdates_of (by decide)⟩, ⟨_, rfl, _, rfl, by decide, by decide⟩, ⟨_, rfl, by decide, by decide⟩, ⟨_, rfl, by decide, by decide⟩⟩

theorem witness_CompareAndTestResult :
    (meetsUpdates 8 (aluOperands Reg8.part (.rmReg (.mem md) .cl)) ws ∧
      meetsUpdates 16 (testOperands Reg16.part (.regRm .dx (.mem md))) ws ∧
      meetsUpdates 32 (testOperands Reg32.part (.immAcc 3#32)) ws) ∧
      sourceDenied (aluOperands (n := 32) Reg32.part (.rmReg (.mem mno) .eax)).1 strict ∧
      operandDenied .read 16 (testOperands (n := 16) Reg16.part (.immRm 1#16 (.mem mno))).2 strict :=
  ⟨⟨meetsUpdates_of (by decide), meetsUpdates_of (by decide), meetsUpdates_of (by decide)⟩, ⟨_, rfl, _, rfl, by decide, by decide⟩, ⟨_, rfl, by decide, by decide⟩⟩

theorem witness_IncAndDecResult :
    (meetsModifies 8 ((RM.mem md : RM Reg8).map Reg8.part) ws ∧ meetsModifies 16 (incOperand Reg16.part (.reg .ax)) ws ∧
      meetsModifies 32 (incOperand Reg32.part (.rm (.mem mtop))) ws) ∧
      operandDenied .read 8 (.mem mno) strict ∧ operandDenied .write 32 (.mem md) strict :=
  ⟨⟨meetsModifies_of (by decide), meetsModifies_of (by decide), meetsModifies_of (by decide)⟩, ⟨_, rfl, by decide, by decide⟩, ⟨_, rfl, by decide, by decide⟩⟩

theorem witness_NotAndNegResult :
    (meetsModifies 8 ((RM.reg Reg8.ah).map Reg8.part) ws ∧ meetsModifies 16 ((RM.mem md : RM Reg16).map Reg16.part) ws ∧
      meetsModifies 32 ((RM.reg Reg32.eax).map Reg32.part) ws) ∧
      operandDenied .read 8 (.mem mno) strict ∧ operandDenied .write 32 (.mem md) strict :=
  ⟨⟨meetsModifies_of (by decide), meetsModifies_of (by decide), meetsModifies_of (by decide)⟩, ⟨_, rfl, by decide, by decide⟩, ⟨_, rfl, by decide, by decide⟩⟩

/-- Counts 0 (of `imm8 = 32`), 1 (of `%cl = 0x41`) and 31. -/
theorem witness_LeftShiftResult :
    ((meetsModifies 8 (shiftOperands Reg8.part (.imm 32#8 (.mem md))).2 ws ∧ writtenCount ws (.imm 32#8) % 32 = 0) ∧
      (meetsModifies 16 (shiftOperands Reg16.part (.cl (.mem md))).2 ws ∧ writtenCount ws .cl % 32 = 1) ∧
      (meetsModifies 32 (shiftOperands Reg32.part (.imm 0xFF#8 (.mem md))).2 ws ∧ writtenCount ws (.imm 0xFF#8) % 32 = 31)) ∧
      operandDenied .read 16 (.mem mno) strict ∧ operandDenied .write 32 (.mem md) strict ∧ writtenCount strict .cl % 32 ≠ 0 :=
  ⟨⟨⟨meetsModifies_of (by decide), by decide⟩, ⟨meetsModifies_of (by decide), by decide⟩,
    ⟨meetsModifies_of (by decide), by decide⟩⟩, ⟨_, rfl, by decide, by decide⟩, ⟨_, rfl, by decide, by decide⟩, by decide⟩

/-- Counts 0, 8 (the byte width) and 1 (the `$1` form). -/
theorem witness_RightShiftResult :
    ((meetsModifies 32 (shiftOperands Reg32.part (.imm 0#8 (.mem md))).2 ws ∧ writtenCount ws (.imm 0#8) % 32 = 0) ∧
      (meetsModifies 8 (shiftOperands Reg8.part (.imm 8#8 (.mem md))).2 ws ∧ writtenCount ws (.imm 8#8) % 32 = 8) ∧
      (meetsModifies 16 (shiftOperands Reg16.part (.one (.reg .cx))).2 ws ∧ writtenCount ws (.imm 1#8) % 32 = 1)) ∧
      operandDenied .read 16 (.mem mno) strict ∧ operandDenied .write 32 (.mem md) strict ∧ writtenCount strict .cl % 32 ≠ 0 :=
  ⟨⟨⟨meetsModifies_of (by decide), by decide⟩, ⟨meetsModifies_of (by decide), by decide⟩,
    ⟨meetsModifies_of (by decide), by decide⟩⟩, ⟨_, rfl, by decide, by decide⟩, ⟨_, rfl, by decide, by decide⟩, by decide⟩

/-- Counts 0, 16 (the width) and 17 (above it). -/
theorem witness_DoubleShiftResult :
    ((meetsModifies 32 (dshiftOperands Reg32.part (.imm 0#8 .eax (.mem md))).2.2 ws ∧ writtenCount ws (.imm 0#8) % 32 = 0) ∧
      (meetsModifies 16 (dshiftOperands Reg16.part (.imm 16#8 .ax (.mem md))).2.2 ws ∧ writtenCount ws (.imm 16#8) % 32 = 16) ∧
      (meetsModifies 16 (dshiftOperands Reg16.part (.imm 17#8 .ax (.mem md))).2.2 ws ∧ writtenCount ws (.imm 17#8) % 32 = 17)) ∧
      operandDenied .read 16 (.mem mno) strict ∧ operandDenied .write 32 (.mem md) strict ∧ writtenCount strict .cl % 32 ≠ 0 :=
  ⟨⟨⟨meetsModifies_of (by decide), by decide⟩, ⟨meetsModifies_of (by decide), by decide⟩,
    ⟨meetsModifies_of (by decide), by decide⟩⟩, ⟨_, rfl, by decide, by decide⟩, ⟨_, rfl, by decide, by decide⟩, by decide⟩

theorem witness_DoubleShiftOfOneRegisterRotates : (16#8 : Byte).toNat % 32 ≤ 16 ∧ (32#8 : Byte).toNat % 32 ≤ 16 := by decide

theorem witness_MultiplyResult :
    (readRM 8 ((RM.mem md : RM Reg8).map Reg8.part) ws = .ok 0xFF#8 ∧
      readRM 16 ((RM.mem md : RM Reg16).map Reg16.part) ws = .ok 0x7FFF#16 ∧
      readRM 32 ((RM.reg Reg32.eax).map Reg32.part) ws = .ok 0x7FFFFFFF#32) ∧
      operandDenied .read 32 (.mem mno) strict :=
  ⟨by decide, ⟨_, rfl, by decide, by decide⟩⟩

theorem witness_SignedMultiplyResult :
    (readRM 8 ((RM.mem md : RM Reg8).map Reg8.part) ws = .ok 0xFF#8 ∧
      readRM 16 ((RM.mem md : RM Reg16).map Reg16.part) ws = .ok 0x7FFF#16 ∧
      readPart 16 (Reg16.part .cx) ws = 0x41#16 ∧
      readRM 32 ((RM.mem md : RM Reg32).map Reg32.part) ws = .ok 0x7FFF#32 ∧
      (0xFFFFFF80#32 : Word) = (0x80#8 : Byte).signExtend 32) ∧
      operandDenied .read 32 (.mem mno) strict :=
  ⟨by decide, ⟨_, rfl, by decide, by decide⟩⟩

/-- `%ax` one below the limit of `2^8 * 0x41`, at it, and a zero divisor. -/
theorem witness_DivideResult :
    ((readRM 8 ((RM.reg Reg8.cl).map Reg8.part) ws = .ok 0x41#8 ∧
      readPair 8 { ws with gpr := { ws.gpr with eax := 0x40FF#32 } } + 1 = 2 ^ 8 * (0x41#8 : Byte).toNat ∧
      readPair 8 { ws with gpr := { ws.gpr with eax := 0x4100#32 } } = 2 ^ 8 * (0x41#8 : Byte).toNat) ∧
      readRM 32 ((RM.reg Reg32.edx).map Reg32.part) ws = .ok 0#32) ∧
      operandDenied .read 32 (.mem mno) strict :=
  ⟨by decide, ⟨_, rfl, by decide, by decide⟩⟩

/-- The bounds are `0x80` and `0x7FFF`; at them, and one outside each. -/
theorem witness_BoundResult :
    ((load 32 (ws.linear (segmentOf { md with disp := 0#32 }) (effectiveAddress ws { md with disp := 0#32 })) ws = .ok 0x80#32 ∧
      load 32 (ws.linear (segmentOf { md with disp := 0#32 })
        (effectiveAddress ws { md with disp := 0#32 } + BitVec.ofNat 32 (32 / 8))) ws = .ok 0x7FFF#32) ∧
      ((0x80#32 : Word).toInt ≤ (0x7FFF#32 : Word).toInt ∧ (0x7F#32 : Word).toInt < (0x80#32 : Word).toInt ∧
        (0x7FFF#32 : Word).toInt < (0x8000#32 : Word).toInt)) ∧
      denied .read (strict.linear (segmentOf mno) (effectiveAddress strict mno)) (32 / 8) strict ∧
      (strict.canRead (strict.linear (segmentOf mno) (effectiveAddress strict { mno with disp := 0x2FFC#32 })) (32 / 8) ∧
        denied .read (strict.linear (segmentOf mno) (effectiveAddress strict { mno with disp := 0x2FFC#32 } + BitVec.ofNat 32 (32 / 8))) (32 / 8) strict) :=
  ⟨⟨⟨by decide, by decide⟩, by decide⟩, ⟨by decide, by decide⟩, canRead_of (by decide), ⟨by decide, by decide⟩⟩

/-- Equal operands, and operands that differ in both orders. -/
theorem witness_CompareThenJump :
    (readSrc (aluOperands Reg32.part (.regRm .ebx (.reg .edi))).1 ws = .ok 0x2000#32 ∧
      readRM 32 (aluOperands (n := 32) Reg32.part (.regRm .ebx (.reg .edi))).2 ws = .ok 0x2000#32) ∧
      (readSrc (aluOperands Reg8.part (.regRm .cl (.mem md))).1 ws = .ok 0x41#8 ∧
        readRM 8 (aluOperands (n := 8) Reg8.part (.regRm .cl (.mem md))).2 ws = .ok 0xFF#8) := by decide

/-- The full pointer in the last six bytes, and one that `%gs` may not load. -/
theorem witness_LoadPointerResult :
    (((operandAddress ws { mtop with disp := 0xFFFFFFFA#32 }).toNat + 32 / 8 + 2 = addressSpace ∧
      load 32 (operandAddress ws { mtop with disp := 0xFFFFFFFA#32 }) ws = .ok 0#32 ∧
      load 16 (operandAddress ws { mtop with disp := 0xFFFFFFFA#32 } + BitVec.ofNat 32 (32 / 8)) ws = .ok 0#16 ∧
      selectorLoadable ws .ds 0#16 = true ∧ selectorLoadable ws .ss 0#16 = false) ∧
      selectorLoadable { ws with plat := { ws.plat with unloadable := [(.gs, 0x80#16)] } } .gs 0x80#16 = false) ∧
      (operandAddress strict mno).toNat + 32 / 8 + 2 ≤ addressSpace ∧ denied .read (operandAddress strict mno) (32 / 8) strict ∧
      denied .read (operandAddress strict { mno with disp := 0x2FFC#32 } + BitVec.ofNat 32 (32 / 8)) 2 strict :=
  ⟨by decide, by decide, ⟨by decide, by decide⟩, ⟨by decide, by decide⟩⟩

theorem witness_PopResult :
    ((load 32 (ws.linear .ss ws.gpr.esp) ws = .ok 0x23#32 ∧
      (locate (afterIncrement (32 / 8) ws) ((RM.mem { md with base := some .esp } : RM Reg32).map Reg32.part)).writable 32 ws) ∧
      (selectorLoadable ws .ss ((0x23#32 : Word).setWidth 16) = true) ∧
      (load 32 (strict.linear .ss strict.gpr.esp) strict = .ok 0#32 ∧ (0#32 : Word).extractLsb' 2 14 = 0#14 ∧
        selectorLoadable strict .ss ((0#32 : Word).setWidth 16) = false)) ∧
      denied .read (noStack.linear .ss noStack.gpr.esp) (32 / 8) noStack ∧ denied .read (noStack.linear .ss noStack.gpr.esp) 4 noStack ∧
      (strict.canRead (strict.linear .ss strict.gpr.esp) (32 / 8) ∧
        operandDenied .write 32 (.mem md) (afterIncrement (32 / 8) strict)) :=
  ⟨⟨⟨by decide, writable_of (by decide)⟩, by decide, by decide, by decide, by decide⟩, ⟨by decide, by decide⟩, ⟨by decide, by decide⟩, canRead_of (by decide), ⟨_, rfl, by decide, by decide⟩⟩

theorem witness_PushResult :
    ((readSrc (pushOperand (.rm (.mem md))) ws = .ok 0x7FFF#16 ∧
      ws.canWrite (ws.linear .ss (ws.gpr.esp - BitVec.ofNat 32 (16 / 8))) (16 / 8)) ∧
      ws.canWrite (ws.linear .ss (ws.gpr.esp - 4#32)) 4) ∧
      denied .write (noStack.linear .ss (noStack.gpr.esp - BitVec.ofNat 32 (16 / 8))) (16 / 8) noStack ∧
      denied .write (noStack.linear .ss (noStack.gpr.esp - 4#32)) 4 noStack ∧ sourceDenied (pushOperand (.rm (.mem mno))) strict :=
  ⟨⟨⟨by decide, canWrite_of (by decide)⟩, canWrite_of (by decide)⟩, ⟨by decide, by decide⟩, ⟨by decide, by decide⟩, ⟨_, rfl, _, rfl, by decide, by decide⟩⟩

theorem witness_PopUndoesPush :
    Reg32.ebx ≠ .esp ∧ ws.canWrite (ws.linear .ss (ws.gpr.esp - 4#32)) 4 ∧
      ws.canRead (ws.linear .ss (ws.gpr.esp - 4#32)) 4 := ⟨by decide, canWrite_of (by decide), canRead_of (by decide)⟩

/-- The last port of each width is open at CPL 0; at CPL 3 only the ports listed are. -/
theorem witness_InAndOutResult :
    (∀ c ∈ [(0xFFFF, 1), (0xFFFE, 2), (0xFFFC, 4)],
      ioPermitted ws (BitVec.ofNat 16 c.1) c.2 = true ∧ (BitVec.ofNat 16 c.1).toNat + c.2 ≤ portSpace) ∧
      (0xFF#16 : Half).toNat = portOf ws (.imm8 0xFF#8) ∧ ioPermitted strict 0xFF#16 1 = false ∧
      ioPermitted { strict with plat := { strict.plat with ioAllowed := [⟨0xFE, 2⟩] } } 0xFE#16 2 = true ∧
      ioPermitted { strict with plat := { strict.plat with ioAllowed := [⟨0xFE, 2⟩] } } 0xFE#16 4 = false := by decide

theorem witness_InsResult :
    (portOpen ws (dxPort ws) (32 / 8) ∧ ws.canWrite (ws.linear .es ws.gpr.edi) (32 / 8) ∧ ws.gpr.ecx ≠ 0#32) ∧
      ioPermitted strict (dxPort strict) (32 / 8) = false ∧
      (ioPermitted (readOnly 0x2003 ws) (dxPort (readOnly 0x2003 ws)) (32 / 8) = true ∧
        denied .write ((readOnly 0x2003 ws).linear .es (readOnly 0x2003 ws).gpr.edi) (32 / 8) (readOnly 0x2003 ws)) ∧
      { ws with gpr := g0 }.gpr.ecx = 0#32 :=
  ⟨⟨⟨by decide, by decide⟩, canWrite_of (by decide), by decide⟩, by decide, ⟨by decide, by decide, by decide⟩, by decide⟩

theorem witness_OutsResult :
    ((outsReads none ws .ds ∧ portOpen ws (dxPort ws) (16 / 8) ∧ ws.canRead (ws.linear .ds ws.gpr.esi) (16 / 8) ∧
      ws.gpr.ecx ≠ 0#32) ∧
      outsReads (some .fs) strict .fs ∧
      ioPermitted strict (dxPort strict) (16 / 8) = false ∧ { ws with gpr := g0 }.gpr.ecx = 0#32) ∧
      (outsReads (some .ds) { strict with cpl := 0#2, gpr := { strict.gpr with esi := 0x3000#32 } } .ds ∧
        ioPermitted { strict with cpl := 0#2, gpr := { strict.gpr with esi := 0x3000#32 } } 0#16 (16 / 8) = true ∧
        denied .read ({ strict with gpr := { strict.gpr with esi := 0x3000#32 } }.linear .ds 0x3000#32) (16 / 8) strict) ∧
      (extraBase 0x1000#32 ws).plat.segBase.ds ≠ (extraBase 0x1000#32 ws).plat.segBase.es :=
  ⟨⟨⟨⟨by decide, .inl ⟨rfl, rfl⟩⟩, ⟨by decide, by decide⟩, canRead_of (by decide), by decide⟩, ⟨by decide, .inr rfl⟩,
    by decide, by decide⟩, ⟨⟨by decide, .inr rfl⟩, by decide, ⟨by decide, by decide⟩⟩, by decide⟩

theorem witness_RepOutsSendsTheBlock :
    ws.gpr.ecx.toNat = 0x41 ∧ (0x41 : Nat) ≠ 0 ∧ ws.flags.df = false ∧ outsReads none ws .ds ∧
      outsReads (some .gs) ws .gs ∧ portOpen ws (dxPort ws) (16 / 8) ∧
      ∀ k < 0x41, ws.canRead (ws.linear .ds (ws.gpr.esi + BitVec.ofNat 32 (k * (16 / 8)))) (16 / 8) :=
  ⟨by decide, by decide, by decide, ⟨by decide, .inl ⟨rfl, rfl⟩⟩, ⟨by decide, .inr rfl⟩, ⟨by decide, by decide⟩, fun k hk =>
    canRead_of ((by decide : ∀ k < 0x41,
      okB (checkAccess .read (ws.linear .ds (ws.gpr.esi + BitVec.ofNat 32 (k * (16 / 8)))) (16 / 8) ws) = true) k hk)⟩

/-- CPL equal to IOPL, and one above it. -/
theorem witness_InterruptFlagResult :
    (∀ k ∈ [0#2, 1#2, 2#2, 3#2],
      (atCpl k (ws.setFlags { f0 with iopl := k })).cpl.toNat ≤ (atCpl k (ws.setFlags { f0 with iopl := k })).flags.iopl.toNat) ∧
      (atCpl 1#2 ws).flags.iopl.toNat < (atCpl 1#2 ws).cpl.toNat := by decide

theorem witness_PopfResult :
    ((load 16 (ws.linear .ss ws.gpr.esp) ws = .ok 0x23#16 ∧ (0x23#16 : Half).getLsbD 8 = false ∧ (0x23#16 : Half).getLsbD 18 = false) ∧
      (load 32 (guarded.linear .ss guarded.gpr.esp) guarded = .ok 0x3200#32 ∧ (0x3200#32 : Word).getLsbD 8 = false ∧
        (0x3200#32 : Word).getLsbD 18 = false ∧ guarded.cpl ≠ 0#2 ∧ guarded.flags.iopl.toNat < guarded.cpl.toNat)) ∧
      denied .read (noStack.linear .ss noStack.gpr.esp) (16 / 8) noStack :=
  ⟨by decide, ⟨by decide, by decide⟩⟩

theorem witness_PopfRefusesTrapImages :
    (load 16 ((odd [(0x8001, 1#8)]).linear .ss (odd [(0x8001, 1#8)]).gpr.esp) (odd [(0x8001, 1#8)]) = .ok 0x100#16 ∧
      (0x100#16 : Half).getLsbD 8 = true) ∧
      (load 32 ((odd [(0x8002, 4#8)]).linear .ss (odd [(0x8002, 4#8)]).gpr.esp) (odd [(0x8002, 4#8)]) = .ok 0x40000#32 ∧
        (0x40000#32 : Word).getLsbD 8 = false ∧ (0x40000#32 : Word).getLsbD 18 = true) := by decide

theorem witness_PushfResult :
    (ws.canWrite (ws.linear .ss (ws.gpr.esp - BitVec.ofNat 32 (16 / 8))) (16 / 8) ∧
      ws.canWrite (ws.linear .ss (ws.gpr.esp - BitVec.ofNat 32 (32 / 8))) (32 / 8)) ∧
      denied .write (noStack.linear .ss (noStack.gpr.esp - BitVec.ofNat 32 (32 / 8))) (32 / 8) noStack :=
  ⟨⟨canWrite_of (by decide), canWrite_of (by decide)⟩, ⟨by decide, by decide⟩⟩

theorem witness_PopfUndoesPushf :
    ws.Launched ∧ ws.canWrite (ws.linear .ss (ws.gpr.esp - 4#32)) 4 ∧ ws.canRead (ws.linear .ss (ws.gpr.esp - 4#32)) 4 :=
  ⟨witness_LaunchPremisesKept.1, canWrite_of (by decide), canRead_of (by decide)⟩

/-- The last address of each width. -/
theorem witness_MemoryPrimitives :
    (ws.canRead 0xFFFFFFFF#32 (8 / 8) ∧ ws.canWrite 0xFFFFFFFF#32 (8 / 8)) ∧
      (ws.canRead 0xFFFFFFFE#32 (16 / 8) ∧ ws.canWrite 0xFFFFFFFE#32 (16 / 8)) ∧
      ws.canRead 0xFFFFFFFC#32 (32 / 8) ∧ ws.canWrite 0xFFFFFFFC#32 (32 / 8) :=
  ⟨⟨canRead_of (by decide), canWrite_of (by decide)⟩, ⟨canRead_of (by decide), canWrite_of (by decide)⟩,
    canRead_of (by decide), canWrite_of (by decide)⟩

/-- With and without an override, and the bases that default to `%ss`. -/
theorem witness_AddressOfMemoryOperand :
    ({ md with seg := some .gs } : MemOp).seg = some .gs ∧ md.seg = none ∧
      ({ md with base := some .ebp } : MemOp).base = some .ebp := by decide

theorem witness_RegisterNamesArePartsOfLongs :
    outsideParts [(Reg8.part .ah, 8)] .eax 7 ∧ outsideParts [(Reg8.part .ah, 8)] .eax 16 ∧
      outsideParts [(Reg16.part .sp, 16)] .esp 16 ∧ outsideParts [(Reg16.part .sp, 16)] .eax 0 := by
  unfold outsideParts
  decide

/-- A forbidden port with an unwritable destination, a zero divisor, bounds and a selector that may not be read. -/
def clash : State :=
  { strict with gpr := { strict.gpr with edi := 0x2004#32, esp := 0x3000#32 } }

theorem witness_ExceptionPriority :
    (ioPermitted clash (dxPort clash) 4 = false ∧ denied .write (clash.linear .es clash.gpr.edi) 4 clash) ∧
      (clash.mem.readLE (operandAddress clash mno).toNat 4 = 0 ∧ denied .read (operandAddress clash mno) 4 clash) ∧
      denied .read (clash.linear .ss clash.gpr.esp) 4 clash ∧
        selectorLoadable clash .ss (BitVec.ofNat 16 (clash.mem.readLE (clash.linear .ss clash.gpr.esp).toNat 2)) = false :=
  ⟨⟨by decide, by decide, by decide⟩, ⟨by decide, by decide, by decide⟩, ⟨by decide, by decide⟩, by decide⟩

end Sys2Proof.Tests
end

section
/-! PROOFS of the family `10_state.md`: the register names of R21. -/

namespace Sys2Proof.Machine

/-- A register name read as a number: shift right by its lowest bit, keep its width. -/
theorem readPart_toNat (w : Nat) (p : Part) (s : State) :
    (readPart w p s).toNat = (s.gpr.get p.reg).toNat / 2 ^ p.lo % 2 ^ w := by
  rw [readPart, BitVec.extractLsb'_toNat, Nat.shiftRight_eq_div_pow]

/-- The frame of a write to a register name, over all registers and bits. -/
theorem writePart_getLsbD_outside {w : Nat} (p : Part) (v : BitVec w) (s : State) (fits : p.lo + w ≤ 32)
    {r : Reg32} {b : Nat} (out : outsideParts [(p, w)] r b) :
    ((writePart p v s).gpr.get r).getLsbD b = (s.gpr.get r).getLsbD b := by
  rw [writePart_gpr, Gpr.get_set]
  split
  next same =>
    subst same
    have beside : ¬ (p.lo ≤ b ∧ b < p.lo + w) := fun inside => out (p, w) (List.mem_singleton_self _) ⟨rfl, inside⟩
    rw [insertBits_getLsbD _ _ _ _ fits, if_neg beside]
  next => rfl

/-- Settles O59: a name's value is a quotient and a remainder of its register, and every name lies within its
register, so a write to it is read back and keeps the bits beside it. -/
theorem registerNamesArePartsOfLongs : Obligations.RegisterNamesArePartsOfLongs := by
  unfold Obligations.RegisterNamesArePartsOfLongs
  refine ⟨fun s => ?names, fun s x v => ?byte, fun s x v => ?half⟩
  case names => simp [readPart_toNat, Reg16.part, Reg8.part, Gpr.get]
  case byte =>
    exact ⟨readPart_writePart _ v s (Reg8.part_fits x), fun _ _ => writePart_getLsbD_outside _ v s (Reg8.part_fits x)⟩
  case half =>
    exact ⟨readPart_writePart _ v s (Reg16.part_fits x), fun _ _ => writePart_getLsbD_outside _ v s (Reg16.part_fits x)⟩

end Sys2Proof.Machine
end

section
/-! PROOFS of the family `40_segment_register.md`: `push` (R108 to R110). -/

namespace Sys2Proof.Machine

/-! ### Accesses that are not admitted (R68, R272) -/

theorem checkAccess_of_denied {k : Access} {a : Word} {n : Nat} {s : State} (h : denied k a n s) :
    checkAccess k a n s = .error (.fault (.memoryAccess s.pc)) := by
  obtain ⟨fits, barred⟩ := h
  simp [checkAccess, Nat.not_lt.2 fits, barred, raise]

theorem readRM_of_denied {w : Nat} {x : RM Part} {s : State} (h : operandDenied .read w x s) :
    readRM w x s = .error (.fault (.memoryAccess s.pc)) := by
  obtain ⟨m, rfl, barred⟩ := h
  exact load_error.2 (checkAccess_of_denied barred)

theorem readSrc_of_denied {w : Nat} {x : Src w} {s : State} (h : sourceDenied x s) :
    readSrc x s = .error (.fault (.memoryAccess s.pc)) := by
  obtain ⟨m, rfl, barred⟩ := h
  exact readRM_of_denied barred

theorem push_of_denied {w : Nat} {v : BitVec w} {s : State} (h : denied .write (pushAddress w s) (w / 8) s) :
    push v s = .error (.fault (.memoryAccess s.pc)) :=
  push_error.2 (checkAccess_of_denied h)

/-! ### Pushing a value -/

/-- The first bytes of a stored item hold the low part of its value. -/
theorem Memory.readLE_writeLE_prefix (m : Memory) (a v : Nat) {k n : Nat} (h : k ≤ n) :
    (m.writeLE a v n).readLE a k = v % 256 ^ k := by
  have sameBytes : ∀ i < k, (m.writeLE a v n).read (a + i) = (m.writeLE a v k).read (a + i) := fun i hi => by
    rw [Memory.read_writeLE_inside _ _ _ _ _ hi, Memory.read_writeLE_inside _ _ _ _ _ (Nat.lt_of_lt_of_le hi h)]
  rw [Memory.readLE_congr _ _ _ _ sameBytes, Memory.readLE_writeLE]

/-- With its slot writable a push moves `%esp` down to the slot and stores there; where `pc` goes next is unchanged. -/
theorem push_completes {w : Nat} (v : BitVec w) {s : State} (h : s.canWrite (pushAddress w s) (w / 8)) :
    ∃ u, push v s = .ok u ∧ u.gpr.esp = s.gpr.esp - itemStep w ∧
      u.mem = s.mem.writeLE (pushAddress w s).toNat v.toNat (w / 8) ∧ u.pcNext = s.pcNext :=
  ⟨_, push_ok.2 ⟨h, rfl⟩, rfl, rfl, rfl⟩

/-- A register, memory or immediate operand of a whole number of bytes (R108, R109). -/
theorem pushes_of_pushFrom {F : Type} {w : Nat} {operand : F → Src w} {mk : F → Instr} (bytes : 8 * (w / 8) = w)
    (meaning : ∀ f s, exec (mk f) s = outcome (pushFrom (operand f) s)) : pushes w operand mk := by
  refine ⟨fun f s v hread => ⟨fun writable => ?pushed, fun barred => ?slotDenied⟩, fun f s barred => ?sourceDenied⟩
  case pushed =>
    obtain ⟨u, hpush, hesp, hmem, hpc⟩ := push_completes v writable
    have fits : v.toNat < 256 ^ (w / 8) := by
      rw [show 256 = 2 ^ 8 from rfl, ← Nat.pow_mul, bytes]
      exact v.isLt
    refine ⟨u.advance, ?_, hesp, ?_, hpc⟩
    · rw [meaning, pushFrom_ok.2 ⟨v, u, hread, hpush, rfl⟩, outcome_ok]
    · rw [State.advance_mem, hmem]
      exact (Memory.readLE_writeLE ..).trans (Nat.mod_eq_of_lt fits)
  case slotDenied =>
    rw [memoryFaults, meaning, outcome_fault]
    simp [pushFrom, hread, push_of_denied barred]
  case sourceDenied =>
    rw [memoryFaults, meaning, outcome_fault]
    simp [pushFrom, readSrc_of_denied barred]

/-! ### Pushing a segment register -/

/-- Whatever the drawn half is, the low half of the pushed long is the selector (R110). -/
theorem segmentImage_low (r : SReg) (s : State) : (segmentImage r s).toNat % 256 ^ 2 = (s.seg.get r).toNat := by
  have low : (segmentImage r s).setWidth 16 = s.seg.get r := BitVec.setWidth_append_eq_right
  rw [show 256 ^ 2 = 2 ^ 16 from rfl, ← BitVec.toNat_setWidth, low]

theorem pushesSegment_of_pushSegment {mk : SReg → Instr}
    (meaning : ∀ r s, exec (mk r) s = outcome (pushSegment r s)) : pushesSegment mk := by
  refine fun r s => ⟨fun writable => ?pushed, fun barred => ?slotDenied⟩
  case pushed =>
    obtain ⟨u, hpush, hesp, hmem, hpc⟩ := push_completes (segmentImage r s) writable
    refine ⟨(u.drew 1).advance, ?_, hesp, ?_, hpc⟩
    · rw [meaning, pushSegment_ok.2 ⟨u, hpush, rfl⟩, outcome_ok]
    · rw [State.advance_mem, State.drew_mem, hmem]
      exact (Memory.readLE_writeLE_prefix _ _ _ (by decide)).trans (segmentImage_low r s)
  case slotDenied =>
    rw [memoryFaults, meaning, outcome_fault]
    have stops : push (segmentImage r s) s = _ := push_of_denied barred
    simp [pushSegment, stops]

/-- Settles O43: each form of `push` runs `pushFrom` on its operand, or `pushSegment`, and both complete or fault as
the stack slot and the source admit. -/
theorem pushResult : Obligations.PushResult := by
  unfold Obligations.PushResult
  refine ⟨?word, ?longRM, ?longReg, ?longImm, ?longImm8, ?longSegment, ?segment⟩
  case word | longRM | longReg | longImm | longImm8 => exact pushes_of_pushFrom rfl fun _ _ => rfl
  case longSegment | segment => exact pushesSegment_of_pushSegment fun _ _ => rfl

end Sys2Proof.Machine
end

section
/-! PROOFS of the family `42_flag.md`: the flag byte, CF, DF and IF, and `pushf` (R140, R141, R143 to R150). -/

namespace Sys2Proof.Machine

/-! ### Instructions whose one effect is on the flags -/

theorem changeFlags_completes (f : Flags) (s : State) :
    ∃ t, outcome (changeFlags f s) = .next t ∧ t.flags = f ∧ t.gpr = s.gpr ∧ advances s t :=
  ⟨(s.setFlags f).advance, outcome_ok _, rfl, rfl, rfl⟩

/-- Settles O51: each of the five is `changeFlags` with one flag replaced. -/
theorem carryAndDirectionResult : Obligations.CarryAndDirectionResult := by
  unfold Obligations.CarryAndDirectionResult
  exact fun s => ⟨changeFlags_completes _ s, changeFlags_completes _ s, changeFlags_completes _ s,
    changeFlags_completes _ s, changeFlags_completes _ s⟩

/-! ### The privilege test of `cli` and `sti` (R147, R148) -/

theorem requireIopl_of_lt {s : State} (h : s.flags.iopl.toNat < s.cpl.toNat) :
    requireIopl s = .error (.fault (.generalProtection s.pc)) :=
  if_neg (Nat.not_le.2 h)

/-- Settles O52: `requireIopl` decides between the update of IF and `#GP(0)`. -/
theorem interruptFlagResult : Obligations.InterruptFlagResult := by
  unfold Obligations.InterruptFlagResult
  refine fun s => ⟨fun privileged => ⟨?cliWrites, ?stiWrites⟩, fun unprivileged => ⟨?cliFaults, ?stiFaults⟩⟩
  case cliWrites => exact ⟨_, (outcome_next _ _).2 (clearInterrupt_ok.2 ⟨privileged, rfl⟩), rfl, rfl⟩
  case stiWrites => exact ⟨_, (outcome_next _ _).2 (setInterrupt_ok.2 ⟨privileged, rfl⟩), rfl, rfl⟩
  case cliFaults | stiFaults => exact (outcome_fault _ _).2 (bind_error.2 (.inl (requireIopl_of_lt unprivileged)))

/-! ### The bits of the flag images (R140, R143) -/

@[simp] theorem bitAt_getElem (k i : Nat) (b : Bool) (h : i < 32) : (bitAt k b)[i] = (decide (i = k) && b) := by
  rw [bitAt, BitVec.getElem_shiftLeft, BitVec.getElem_setWidth, BitVec.getLsbD_ofBool]
  rcases Nat.lt_trichotomy i k with below | rfl | above
  · simp [below, Nat.ne_of_lt below]
  · simp
  · simp [Nat.ne_of_gt above, Nat.sub_ne_zero_of_lt above]

theorem lahfByte_getLsbD (s : State) :
    (lahfByte s).getLsbD 7 = s.flags.sf ∧ (lahfByte s).getLsbD 6 = s.flags.zf ∧
      (lahfByte s).getLsbD 4 = s.flags.af ∧ (lahfByte s).getLsbD 2 = s.flags.pf ∧
      (lahfByte s).getLsbD 0 = s.flags.cf := by
  simp [lahfByte]

/-- An image has the flags of R143 at their places, and zeros where RF and VM would be. -/
def carriesFlags {w : Nat} (img : BitVec w) (f : Flags) : Prop :=
  img.getLsbD 0 = f.cf ∧ img.getLsbD 2 = f.pf ∧ img.getLsbD 4 = f.af ∧ img.getLsbD 6 = f.zf ∧
    img.getLsbD 7 = f.sf ∧ img.getLsbD 8 = f.tf ∧ img.getLsbD 9 = f.intf ∧ img.getLsbD 10 = f.df ∧
    img.getLsbD 11 = f.of ∧ img.extractLsb' 12 2 = f.iopl ∧ img.getLsbD 14 = f.nt ∧
    img.getLsbD 16 = false ∧ img.getLsbD 17 = false ∧ (18 < w → img.getLsbD 18 = f.ac)

/-- The IOPL field lies beside every other flag of the image. -/
theorem flagImage_iopl (s : State) : (flagImage s).extractLsb' 12 2 = s.flags.iopl := by
  apply BitVec.eq_of_getLsbD_eq
  intro i hi
  have lowOrHigh : i = 0 ∨ i = 1 := by omega
  obtain rfl | rfl := lowOrHigh <;> simp [flagImage]

theorem carriesFlags_flagImage (s : State) : carriesFlags (flagImage s) s.flags := by
  rw [carriesFlags, flagImage_iopl]
  simp [flagImage]

/-- An image cut at any width that reaches NT still has its flags; a short one has no place for AC. -/
theorem carriesFlags.setWidth {v : Word} {f : Flags} {w : Nat} (reachesNt : 14 < w) (h : carriesFlags v f) :
    carriesFlags (v.setWidth w) f := by
  have kept : ∀ i ≤ 14, (v.setWidth w).getLsbD i = v.getLsbD i := fun i hi => by
    rw [BitVec.getLsbD_setWidth, decide_eq_true (Nat.lt_of_le_of_lt hi reachesNt), Bool.true_and]
  have iopl : (v.setWidth w).extractLsb' 12 2 = v.extractLsb' 12 2 := by
    apply BitVec.eq_of_getLsbD_eq
    intro i hi
    simp only [BitVec.getLsbD_extractLsb', kept (12 + i) (by omega)]
  simp only [carriesFlags, kept, iopl, Nat.reduceLeDiff] at h ⊢
  simp +contextual only [h, BitVec.getLsbD_setWidth, Nat.reduceLT, Bool.and_false, decide_true, Bool.true_and,
    implies_true, and_true]

/-! ### `lahf`, `sahf` -/

/-- Settles O50: `lahf` writes `lahfByte` to `%ah` alone, `sahf` changes the flags alone. -/
theorem flagByteTransfers : Obligations.FlagByteTransfers := by
  unfold Obligations.FlagByteTransfers
  refine fun s => ⟨?lahf, ?sahf⟩
  case lahf =>
    obtain ⟨hsf, hzf, haf, hpf, hcf⟩ := lahfByte_getLsbD s
    have ah : readPart 8 partAH ((writePart partAH (lahfByte s) s).drew 3).advance = lahfByte s :=
      readPart_writePart partAH _ s (by decide)
    refine ⟨_, (outcome_next _ _).2 (loadFlagByte_ok.2 rfl), ?_⟩
    rw [ah]
    refine ⟨hsf, hzf, haf, hpf, hcf, fun b beside => ?_, rfl, rfl⟩
    exact writePart_getLsbD_outside partAH _ s (by decide) (r := .eax) (by simp [outsideParts, partAH]; omega)
  case sahf =>
    obtain ⟨t, hexec, hflags, hgpr, hpc⟩ := changeFlags_completes (sahfFlags (readPart 8 partAH s) s.flags) s
    exact ⟨t, hexec, hgpr, hpc, hflags⟩

/-! ### `pushf` -/

/-- An item of a whole number of bytes is read back as it was stored. -/
theorem Memory.readLE_writeLE_item {w : Nat} (m : Memory) (a : Nat) (v : BitVec w) (bytes : 8 * (w / 8) = w) :
    (m.writeLE a v.toNat (w / 8)).readLE a (w / 8) = v.toNat := by
  have fits : v.toNat < 256 ^ (w / 8) := by
    rw [show 256 = 2 ^ 8 from rfl, ← Nat.pow_mul, bytes]
    exact v.isLt
  rw [Memory.readLE_writeLE, Nat.mod_eq_of_lt fits]

/-- `pushf` of a whole number of bytes that reaches NT. -/
theorem pushesFlags_of_pushFlags {w : Nat} {i : Instr} (bytes : 8 * (w / 8) = w) (reachesNt : 14 < w)
    (meaning : ∀ s, exec i s = outcome (pushFlags w s)) : pushesFlags w i := by
  refine ⟨fun s barred => ?slotDenied, fun s writable => ?pushed⟩
  case slotDenied =>
    rw [memoryFaults, meaning, outcome_fault]
    exact bind_error.2 (.inl (push_of_denied barred))
  case pushed =>
    have completes := pushFlags_ok.2 ⟨_, push_ok.2 ⟨writable, rfl⟩, rfl⟩
    refine ⟨_, (flagImage s).setWidth w, (meaning s).trans ((outcome_next _ _).2 completes), rfl, rfl, rfl, ?_,
      (carriesFlags_flagImage s).setWidth reachesNt⟩
    exact Memory.readLE_writeLE_item s.mem _ _ bytes

/-- Settles O55: both sizes run `pushFlags`, whose image carries the flags. -/
theorem pushfResult : Obligations.PushfResult := by
  unfold Obligations.PushfResult
  exact ⟨pushesFlags_of_pushFlags rfl (by decide) fun _ => rfl, pushesFlags_of_pushFlags rfl (by decide) fun _ => rfl⟩

end Sys2Proof.Machine
end

section
/-! PROOFS of the family `43_arithmetic.md`: `add`, `adc`, `sub`, `sbb`, `cmp`, `test`, `inc`, `dec` (R161 to R168), and
the rules of the operations over which they and the logical instructions are written (R160). -/

namespace Sys2Proof.Machine

/-! ### The flags of a result (R27) -/

theorem resultFlags_byResult {w : Nat} (r : BitVec w) (f : Flags) : resultFlags r (f.byResult r) := by
  refine ⟨?sign, ?zero, ?parity⟩
  case sign => simp [Flags.byResult, signFlag, BitVec.msb_eq_toInt]
  case zero => simp [Flags.byResult, zeroFlag, BitVec.toNat_eq]
  case parity => simp [Flags.byResult, parityFlag, lowByteOnes, List.countP_eq_length_filter]

/-! ### Sums and differences (R161 to R164) -/

theorem isSum_adc {w : Nat} (a b : BitVec w) (c : Bool) : isSum a b c (a + b + BitVec.ofNat w c.toNat) := by
  simp [isSum]

theorem isSum_add {w : Nat} (a b : BitVec w) : isSum a b false (a + b) := by
  simp [isSum]

theorem isDifference_sbb {w : Nat} (a b : BitVec w) (c : Bool) :
    isDifference a b c (a - b - BitVec.ofNat w c.toNat) := by
  have whole : a - b - BitVec.ofNat w c.toNat = BitVec.ofInt w ((a.toNat : Int) - b.toNat - c.toNat) := by
    simp [Int.sub_eq_add_neg, BitVec.ofInt_add, BitVec.ofInt_neg, BitVec.sub_eq_add_neg]
  have pos : (2 : Int) ^ w ≠ 0 := by positivity
  rw [isDifference, whole, BitVec.toNat_ofInt]
  push_cast
  exact Int.toNat_of_nonneg (Int.emod_nonneg _ pos)

theorem isDifference_sub {w : Nat} (a b : BitVec w) : isDifference a b false (a - b) := by
  simpa using isDifference_sbb a b false

theorem eq_of_isSum {w : Nat} {a b r : BitVec w} {c : Bool} (h : isSum a b c r) :
    r = a + b + BitVec.ofNat w c.toNat :=
  BitVec.eq_of_toNat_eq (h.trans (isSum_adc a b c).symm)

theorem eq_of_isDifference {w : Nat} {a b r : BitVec w} {c : Bool} (h : isDifference a b c r) :
    r = a - b - BitVec.ofNat w c.toNat :=
  BitVec.eq_of_toNat_eq (Int.ofNat_inj.1 (h.trans (isDifference_sbb a b c).symm))

/-! ### The flags of sums and differences (R27) -/

/-- A sum wraps at most once. -/
theorem toNat_of_isSum {w : Nat} {a b r : BitVec w} {c : Bool} (h : isSum a b c r) :
    r.toNat = a.toNat + b.toNat + c.toNat ∨ r.toNat + 2 ^ w = a.toNat + b.toNat + c.toNat := by
  have carryIn := c.toNat_le
  rcases Nat.lt_or_ge (a.toNat + b.toNat + c.toNat) (2 ^ w) with fits | wraps
  · exact .inl (h.trans (Nat.mod_eq_of_lt fits))
  · rw [isSum, Nat.mod_eq_sub_mod wraps, Nat.mod_eq_of_lt (by omega)] at h
    omega

/-- A sum's sign is wrong exactly when the operands have one sign and the result the other. -/
theorem addOverflow_iff {w : Nat} (pos : 0 < w) {a b r : BitVec w} {c : Bool} (h : isSum a b c r) :
    (a.msb == b.msb && r.msb != a.msb) = true ↔ r.toInt ≠ a.toInt + b.toInt + c.toNat := by
  obtain ⟨M, half⟩ : 2 ∣ 2 ^ w := dvd_pow_self 2 pos.ne'
  have wraps := toNat_of_isSum h
  have carryIn := c.toNat_le
  have rangeA := a.isLt
  have rangeB := b.isLt
  have rangeR := r.isLt
  simp only [BitVec.msb_eq_toInt, BitVec.toInt_eq_toNat_cond, Bool.and_eq_true, beq_iff_eq, bne_iff_ne, ne_eq,
    decide_eq_decide, half] at wraps rangeA rangeB rangeR ⊢
  split_ifs <;> omega

theorem addFlags_sumFlags {w : Nat} (pos : 0 < w) {a b r : BitVec w} {c : Bool} (h : isSum a b c r) (f : Flags) :
    sumFlags a b c r (addFlags a b c f) := by
  obtain rfl := eq_of_isSum h
  exact ⟨resultFlags_byResult _ f, addOverflow_iff pos h, decide_eq_true_iff⟩

theorem addFlags_sumCarry {w : Nat} (a b : BitVec w) (c : Bool) (f : Flags) : sumCarry a b c (addFlags a b c f) :=
  decide_eq_true_iff

/-- A difference is what the subtrahend and the borrow must be added to, so its overflow is that of a sum. -/
theorem isSum_of_isDifference {w : Nat} {a b r : BitVec w} {c : Bool} (h : isDifference a b c r) : isSum r b c a := by
  obtain rfl := eq_of_isDifference h
  have undone : a - b - BitVec.ofNat w c.toNat + b + BitVec.ofNat w c.toNat = a := by
    rw [add_right_comm, sub_add_cancel, sub_add_cancel]
  simpa [undone] using isSum_adc (a - b - BitVec.ofNat w c.toNat) b c

theorem subOverflow_iff {w : Nat} (pos : 0 < w) {a b r : BitVec w} {c : Bool} (h : isDifference a b c r) :
    (a.msb != b.msb && r.msb != a.msb) = true ↔ r.toInt ≠ a.toInt - b.toInt - c.toNat := by
  have sameSigns : (a.msb != b.msb && r.msb != a.msb) = (r.msb == b.msb && a.msb != r.msb) := by
    cases a.msb <;> cases b.msb <;> cases r.msb <;> rfl
  rw [sameSigns, addOverflow_iff pos (isSum_of_isDifference h)]
  omega

theorem subFlags_differenceFlags {w : Nat} (pos : 0 < w) {a b r : BitVec w} {c : Bool} (h : isDifference a b c r)
    (f : Flags) : differenceFlags a b c r (subFlags a b c f) := by
  obtain rfl := eq_of_isDifference h
  exact ⟨resultFlags_byResult _ f, subOverflow_iff pos h, decide_eq_true_iff⟩

theorem subFlags_differenceBorrow {w : Nat} (a b : BitVec w) (c : Bool) (f : Flags) :
    differenceBorrow a b c (subFlags a b c f) :=
  decide_eq_true_iff

/-! ### Operands as places (R21, R160) -/

/-- A register operand's `w` bits lie within its register. -/
def operandFits (w : Nat) (x : RM Part) : Prop := ∀ p, x = .reg p → p.lo + w ≤ 32

theorem operandFits_map {ρ : Type} {w : Nat} {part : ρ → Part} (fits : ∀ r, (part r).lo + w ≤ 32) (m : RM ρ) :
    operandFits w (m.map part) := by
  cases m with
  | reg r => rintro _ ⟨⟩; exact fits r
  | mem a => rintro _ ⟨⟩

theorem aluOperands_fits {ρ : Type} {w : Nat} {part : ρ → Part} (fits : ∀ r, (part r).lo + w ≤ 32)
    (accFits : acc.lo + w ≤ 32) (f : AluForm ρ w) : operandFits w (aluOperands part f).2 := by
  cases f with
  | regRm _ m | immRm _ m | imm8Rm _ m => exact operandFits_map fits m
  | rmReg _ r => rintro _ ⟨⟩; exact fits r
  | immAcc _ => rintro _ ⟨⟩; exact accFits

theorem incOperand_fits {ρ : Type} {w : Nat} {part : ρ → Part} (fits : ∀ r, (part r).lo + w ≤ 32) (f : IncForm ρ) :
    operandFits w (incOperand part f) := by
  cases f with
  | rm m => exact operandFits_map fits m
  | reg r => rintro _ ⟨⟩; exact fits r

/-- At most one operand is in memory: with the destination there, the source is read without an access. -/
def oneInMemory {w : Nat} (x : Src w × RM Part) : Prop := ∀ m, x.2 = .mem m → ∀ s, ∃ v, readSrc x.1 s = .ok v

theorem aluOperands_oneInMemory {ρ : Type} {w : Nat} (part : ρ → Part) (f : AluForm ρ w) :
    oneInMemory (aluOperands part f) := by
  cases f with
  | regRm _ _ | immRm _ _ | imm8Rm _ _ => exact fun _ _ _ => ⟨_, rfl⟩
  | rmReg _ _ | immAcc _ => rintro _ ⟨⟩

theorem testOperands_oneInMemory {ρ : Type} {w : Nat} (part : ρ → Part) (f : TestForm ρ w) :
    oneInMemory (testOperands part f) := by
  cases f with
  | regRm _ _ | immRm _ _ => exact fun _ _ _ => ⟨_, rfl⟩
  | rmReg _ _ | immAcc _ => rintro _ ⟨⟩

/-! ### Operations that write their operand (R160) -/

theorem writeBack_completes {w : Nat} (bytes : 8 * (w / 8) = w) (e : Effect w) {x : RM Part} {s : State}
    (fits : operandFits w x) (writable : (locate s x).writable w s) :
    ∃ t, writeBack e (locate s x) s = .ok t ∧ (locate s x).holds e.result t ∧ t.flags = e.flags ∧ advances s t := by
  cases x with
  | reg p => exact ⟨_, writeBack_ok.2 ⟨_, rfl, rfl⟩, readPart_writePart p e.result s (fits p rfl), rfl, rfl⟩
  | mem m =>
    exact ⟨_, writeBack_ok.2 ⟨_, store_eq writable, rfl⟩, Memory.readLE_writeLE_item s.mem _ e.result bytes, rfl, rfl⟩

theorem writeBack_of_denied {w : Nat} (e : Effect w) {x : RM Part} {s : State} (h : operandDenied .write w x s) :
    writeBack e (locate s x) s = .error (.fault (.memoryAccess s.pc)) := by
  obtain ⟨m, rfl, barred⟩ := h
  exact bind_error.2 (.inl (store_error.2 (checkAccess_of_denied barred)))

/-- An access below the top is checked for admission alone when it reads. -/
theorem readRM_of_writeDenied {w : Nat} {x : RM Part} {s : State} (h : operandDenied .write w x s) :
    readRM w x s = .error (.fault (.memoryAccess s.pc)) ∨ ∃ d, readRM w x s = .ok d := by
  obtain ⟨m, rfl, fits, -⟩ := h
  cases admitted : memAdmit s (operandAddress s m).toNat (w / 8) .read with
  | false => exact .inl (readRM_of_denied ⟨m, rfl, fits, admitted⟩)
  | true => exact .inr ⟨_, load_eq ⟨fits, admitted⟩⟩

theorem modify_of_denied {w : Nat} (op : BitVec w → State → Effect w) {x : RM Part} {s : State}
    (h : operandDenied .read w x s ∨ operandDenied .write w x s) :
    modify op x s = .error (.fault (.memoryAccess s.pc)) := by
  rcases h with barred | barred
  · simp [modify, readRM_of_denied barred]
  · rcases readRM_of_writeDenied barred with stops | ⟨d, reads⟩
    · simp [modify, stops]
    · simp [modify, reads, writeBack_of_denied _ barred]

/-- An operand of a whole number of bytes: what the operation writes is what the claim must hold of. -/
theorem modifies_of_modify {F : Type} {w : Nat} {operand : F → RM Part} {mk : F → Instr}
    {op : BitVec w → State → Effect w} {claim : BitVec w → Flags → BitVec w → Flags → Prop}
    (bytes : 8 * (w / 8) = w) (fits : ∀ f, operandFits w (operand f))
    (meaning : ∀ f s, exec (mk f) s = outcome (modify op (operand f) s))
    (correct : ∀ d s, claim d s.flags (op d s).result (op d s).flags) : modifies w operand mk claim := by
  refine ⟨fun f s d reads writable => ?completes, fun f s barred => ?faults⟩
  case completes =>
    obtain ⟨t, writes, holds, flags, next⟩ := writeBack_completes bytes (op d s) (fits f) writable
    refine ⟨t, _, ?_, holds, flags ▸ correct d s, next⟩
    rw [meaning, modify_ok.2 ⟨d, reads, writes⟩, outcome_ok]
  case faults => exact (meaning f s).trans ((outcome_fault _ _).2 (modify_of_denied op barred))

theorem update_of_denied {w : Nat} (op : BitVec w → BitVec w → State → Effect w) {x : Src w × RM Part} {s : State}
    (one : oneInMemory x) (h : sourceDenied x.1 s ∨ operandDenied .read w x.2 s ∨ operandDenied .write w x.2 s) :
    update op x s = .error (.fault (.memoryAccess s.pc)) := by
  have asModify : update op x s = readSrc x.1 s >>= fun v => modify (fun d => op d v) x.2 s := rfl
  rcases h with barred | barred
  · simp [asModify, readSrc_of_denied barred]
  · obtain ⟨m, inMemory⟩ : ∃ m, x.2 = .mem m := by
      obtain ⟨m, hm, -⟩ | ⟨m, hm, -⟩ := barred <;> exact ⟨m, hm⟩
    obtain ⟨v, reads⟩ := one m inMemory s
    simp [asModify, reads, modify_of_denied _ barred]

/-- The same of two operands, of which at most one is accessed in memory. -/
theorem updates_of_update {F : Type} {w : Nat} {operands : F → Src w × RM Part} {mk : F → Instr}
    {op : BitVec w → BitVec w → State → Effect w} {claim : BitVec w → BitVec w → Bool → BitVec w → Flags → Prop}
    (bytes : 8 * (w / 8) = w) (fits : ∀ f, operandFits w (operands f).2) (one : ∀ f, oneInMemory (operands f))
    (meaning : ∀ f s, exec (mk f) s = outcome (update op (operands f) s))
    (correct : ∀ d v s, claim d v s.flags.cf (op d v s).result (op d v s).flags) : updates w operands mk claim := by
  refine ⟨fun f s v d readsSource reads writable => ?completes, fun f s barred => ?faults⟩
  case completes =>
    obtain ⟨t, writes, holds, flags, next⟩ := writeBack_completes bytes (op d v s) (fits f) writable
    refine ⟨t, _, ?_, holds, flags ▸ correct d v s, next⟩
    rw [meaning, update_ok.2 ⟨v, d, readsSource, reads, writes⟩, outcome_ok]
  case faults => exact (meaning f s).trans ((outcome_fault _ _).2 (update_of_denied op (one f) barred))

/-- The three widths of R160, each over the forms' own registers. -/
theorem updatesAll_of_update {b : AluForm Reg8 8 → Instr} {h : AluForm Reg16 16 → Instr} {l : AluForm Reg32 32 → Instr}
    {op : ∀ w, BitVec w → BitVec w → State → Effect w}
    {claim : ∀ w : Nat, BitVec w → BitVec w → Bool → BitVec w → Flags → Prop}
    (byte : ∀ f s, exec (b f) s = outcome (update (op 8) (aluOperands Reg8.part f) s))
    (half : ∀ f s, exec (h f) s = outcome (update (op 16) (aluOperands Reg16.part f) s))
    (long : ∀ f s, exec (l f) s = outcome (update (op 32) (aluOperands Reg32.part f) s))
    (correct : ∀ w, 0 < w → ∀ d v s, claim w d v s.flags.cf (op w d v s).result (op w d v s).flags) :
    updatesAll b h l claim :=
  ⟨updates_of_update rfl (aluOperands_fits Reg8.part_fits (by decide)) (aluOperands_oneInMemory _) byte
      (correct 8 (by decide)),
    updates_of_update rfl (aluOperands_fits Reg16.part_fits (by decide)) (aluOperands_oneInMemory _) half
      (correct 16 (by decide)),
    updates_of_update rfl (aluOperands_fits Reg32.part_fits (by decide)) (aluOperands_oneInMemory _) long
      (correct 32 (by decide))⟩

/-! ### `add`, `adc`, `sub`, `sbb` -/

/-- Settles O25: both run `update`, and what it writes is the sum, the flags those of the sum. -/
theorem addAndAdcResult : Obligations.AddAndAdcResult := by
  unfold Obligations.AddAndAdcResult
  refine ⟨?add, ?adc⟩
  case add =>
    refine updatesAll_of_update (op := @addEffect) (fun _ _ => rfl) (fun _ _ => rfl) (fun _ _ => rfl) ?_
    exact fun w pos d v s => ⟨isSum_add d v, addFlags_sumFlags pos (isSum_add d v) _, addFlags_sumCarry d v false _⟩
  case adc =>
    refine updatesAll_of_update (op := @adcEffect) (fun _ _ => rfl) (fun _ _ => rfl) (fun _ _ => rfl) ?_
    exact fun w pos d v s => ⟨isSum_adc d v _, addFlags_sumFlags pos (isSum_adc d v _) _, addFlags_sumCarry d v _ _⟩

/-- Settles O26: both run `update`, and what it writes is the difference, the flags those of the difference. -/
theorem subAndSbbResult : Obligations.SubAndSbbResult := by
  unfold Obligations.SubAndSbbResult
  refine ⟨?sub, ?sbb⟩
  case sub =>
    refine updatesAll_of_update (op := @subEffect) (fun _ _ => rfl) (fun _ _ => rfl) (fun _ _ => rfl) ?_
    exact fun w pos d v s => ⟨isDifference_sub d v, subFlags_differenceFlags pos (isDifference_sub d v) _,
      subFlags_differenceBorrow d v false _⟩
  case sbb =>
    refine updatesAll_of_update (op := @sbbEffect) (fun _ _ => rfl) (fun _ _ => rfl) (fun _ _ => rfl) ?_
    exact fun w pos d v s => ⟨isDifference_sbb d v _, subFlags_differenceFlags pos (isDifference_sbb d v _) _,
      subFlags_differenceBorrow d v _ _⟩

/-! ### Operations that write the flags alone (R165, R168) -/

theorem compare_of_denied {w : Nat} (op : BitVec w → BitVec w → State → Effect w) {x : Src w × RM Part} {s : State}
    (one : oneInMemory x) (h : sourceDenied x.1 s ∨ operandDenied .read w x.2 s) :
    compare op x s = .error (.fault (.memoryAccess s.pc)) := by
  rcases h with barred | barred
  · simp [compare, readSrc_of_denied barred]
  · have ⟨m, inMemory, _⟩ := barred
    obtain ⟨v, reads⟩ := one m inMemory s
    simp [compare, reads, readRM_of_denied barred]

theorem comparesOnly_of_compare {F : Type} {w : Nat} {operands : F → Src w × RM Part} {mk : F → Instr}
    {op : BitVec w → BitVec w → State → Effect w} {claim : BitVec w → BitVec w → Flags → Prop}
    (one : ∀ f, oneInMemory (operands f)) (meaning : ∀ f s, exec (mk f) s = outcome (compare op (operands f) s))
    (correct : ∀ d v s, claim d v (op d v s).flags) : comparesOnly w operands mk claim := by
  refine ⟨fun f s v d readsSource reads => ?completes, fun f s barred => ?faults⟩
  case completes =>
    have completes := (compare_ok (op := op)).2 ⟨v, d, readsSource, reads, rfl⟩
    exact ⟨_, (meaning f s).trans ((outcome_next _ _).2 completes), rfl, rfl, correct d v s, rfl⟩
  case faults => exact (meaning f s).trans ((outcome_fault _ _).2 (compare_of_denied op (one f) barred))

theorem subEffect_compares {w : Nat} (pos : 0 < w) (d v : BitVec w) (s : State) :
    differenceFlags d v false (d - v) (subEffect d v s).flags ∧ differenceBorrow d v false (subEffect d v s).flags :=
  ⟨subFlags_differenceFlags pos (isDifference_sub d v) _, subFlags_differenceBorrow d v false _⟩

theorem logicFlags_logicalFlags {w : Nat} (r : BitVec w) (af : Bool) (f : Flags) : logicalFlags r (logicFlags r af f) :=
  ⟨resultFlags_byResult r f, rfl, rfl⟩

/-- Settles O28: both run `compare`, `cmp` with the flags of the difference and `test` with those of the AND. -/
theorem compareAndTestResult : Obligations.CompareAndTestResult := by
  unfold Obligations.CompareAndTestResult
  refine ⟨⟨?cmpb, ?cmpw, ?cmpl⟩, ?testb, ?testw, ?testl⟩
  case cmpb | cmpw | cmpl =>
    exact comparesOnly_of_compare (aluOperands_oneInMemory _) (fun _ _ => rfl) (subEffect_compares (by decide))
  case testb | testw | testl =>
    exact comparesOnly_of_compare (op := andEffect) (testOperands_oneInMemory _) (fun _ _ => rfl)
      fun _ _ _ => logicFlags_logicalFlags _ _ _

/-! ### `inc` and `dec` -/

theorem incEffect_adds {w : Nat} (pos : 0 < w) (d : BitVec w) (s : State) :
    isSum d 1#w false (incEffect d s).result ∧ sumFlags d 1#w false (incEffect d s).result (incEffect d s).flags ∧
      (incEffect d s).flags.cf = s.flags.cf :=
  ⟨isSum_add d 1#w, addFlags_sumFlags pos (isSum_add d 1#w) s.flags, rfl⟩

theorem decEffect_subtracts {w : Nat} (pos : 0 < w) (d : BitVec w) (s : State) :
    isDifference d 1#w false (decEffect d s).result ∧
      differenceFlags d 1#w false (decEffect d s).result (decEffect d s).flags ∧
      (decEffect d s).flags.cf = s.flags.cf :=
  ⟨isDifference_sub d 1#w, subFlags_differenceFlags pos (isDifference_sub d 1#w) s.flags, rfl⟩

/-- Settles O29: both run `modify` with 1 as the other operand, and put the old CF back. -/
theorem incAndDecResult : Obligations.IncAndDecResult := by
  unfold Obligations.IncAndDecResult
  have byte := operandFits_map Reg8.part_fits
  have half := incOperand_fits Reg16.part_fits
  have long := incOperand_fits Reg32.part_fits
  refine ⟨⟨?incb, ?incw, ?incl⟩, ?decb, ?decw, ?decl⟩
  case incb => exact modifies_of_modify rfl byte (fun _ _ => rfl) (incEffect_adds (by decide))
  case incw => exact modifies_of_modify rfl half (fun _ _ => rfl) (incEffect_adds (by decide))
  case incl => exact modifies_of_modify rfl long (fun _ _ => rfl) (incEffect_adds (by decide))
  case decb => exact modifies_of_modify rfl byte (fun _ _ => rfl) (decEffect_subtracts (by decide))
  case decw => exact modifies_of_modify rfl half (fun _ _ => rfl) (decEffect_subtracts (by decide))
  case decl => exact modifies_of_modify rfl long (fun _ _ => rfl) (decEffect_subtracts (by decide))

end Sys2Proof.Machine
end

section
/-! PROOFS of the family `44_shift.md`: `sal`, `shl`, `shr` and `sar` (R190 to R194). -/

namespace Sys2Proof.Machine

/-! ### The count and the operand (R190) -/

theorem countValue_eq_mod (s : State) (c : Count) : countValue s c = writtenCount s c % 32 := by
  cases c with
  | imm b => rfl
  | cl =>
    have low : (readPart 8 partCL s).toNat = s.gpr.ecx.toNat % 256 := by simp [readPart_toNat, partCL, Gpr.get]
    rw [countValue, low, writtenCount]

theorem shiftOperands_fits {ρ : Type} {w : Nat} {part : ρ → Part} (fits : ∀ r, (part r).lo + w ≤ 32)
    (f : ShiftForm ρ) : operandFits w (shiftOperands part f).2 := by
  cases f <;> exact operandFits_map fits _

/-! ### What a shift does, whatever it computes (R190) -/

section
variable {w : Nat} {op : BitVec w → Nat → State → Effect w} {x : Count × RM Part} {s : State}

theorem shift_of_count_zero {d : BitVec w} (reads : readRM w x.2 s = .ok d) (zero : countValue s x.1 = 0) :
    shift op x s = .ok s.advance :=
  shift_ok.2 ⟨d, reads, .inl ⟨zero, rfl⟩⟩

theorem shift_completes (bytes : 8 * (w / 8) = w) (fits : operandFits w x.2) {d : BitVec w}
    (reads : readRM w x.2 s = .ok d) (nonzero : countValue s x.1 ≠ 0) (writable : (locate s x.2).writable w s) :
    ∃ t, shift op x s = .ok t ∧ (locate s x.2).holds (op d (countValue s x.1) s).result t ∧
      t.flags = (op d (countValue s x.1) s).flags ∧ advances s t := by
  obtain ⟨t, writes, written⟩ := writeBack_completes bytes (op d (countValue s x.1) s) fits writable
  exact ⟨t, shift_ok.2 ⟨d, reads, .inr ⟨nonzero, writes⟩⟩, written⟩

theorem shift_of_denied
    (h : operandDenied .read w x.2 s ∨ (countValue s x.1 ≠ 0 ∧ operandDenied .write w x.2 s)) :
    shift op x s = .error (.fault (.memoryAccess s.pc)) := by
  rcases h with barred | ⟨nonzero, barred⟩
  · simp [shift, readRM_of_denied barred]
  · rcases readRM_of_writeDenied barred with stops | ⟨d, reads⟩
    · simp [shift, stops]
    · simp [shift, reads, nonzero, writeBack_of_denied _ barred]

end

/-- An operand of a whole number of bytes: what the operation computes is what the claim must hold of. -/
theorem shifts_of_shift {F : Type} {w : Nat} {operands : F → Count × RM Part} {mk : F → Instr}
    {op : BitVec w → Nat → State → Effect w} {claim : BitVec w → Nat → BitVec w → Flags → Prop}
    (bytes : 8 * (w / 8) = w) (fits : ∀ f, operandFits w (operands f).2)
    (meaning : ∀ f s, exec (mk f) s = outcome (shift op (operands f) s))
    (correct : ∀ d c s,
      resultFlags (op d c s).result (op d c s).flags ∧ claim d c (op d c s).result (op d c s).flags) :
    shifts w operands mk claim := by
  refine ⟨fun f s d c reads count => ⟨fun zero => ?unshifted, fun nonzero writable => ?shifted⟩,
    fun f s barred => ?faults⟩
  case unshifted =>
    rw [← countValue_eq_mod] at count
    refine ⟨s.advance, ?_, rfl, rfl, rfl, rfl⟩
    rw [meaning, shift_of_count_zero reads (count.symm.trans zero), outcome_ok]
  case shifted =>
    rw [← countValue_eq_mod] at count
    subst count
    obtain ⟨t, completes, holds, flags, next⟩ := shift_completes bytes (fits f) reads nonzero writable
    obtain ⟨byResult, claimed⟩ := correct d _ s
    refine ⟨t, _, ?_, holds, flags ▸ byResult, flags ▸ claimed, next⟩
    rw [meaning, completes, outcome_ok]
  case faults =>
    rw [← countValue_eq_mod] at barred
    exact (meaning f s).trans ((outcome_fault _ _).2 (shift_of_denied barred))

/-- The three widths of R190, each over the forms' own registers. -/
theorem shiftsAll_of_shift {b : ShiftForm Reg8 → Instr} {h : ShiftForm Reg16 → Instr} {l : ShiftForm Reg32 → Instr}
    {op : ∀ w, BitVec w → Nat → State → Effect w} {claim : ∀ w : Nat, BitVec w → Nat → BitVec w → Flags → Prop}
    (byte : ∀ f s, exec (b f) s = outcome (shift (op 8) (shiftOperands Reg8.part f) s))
    (half : ∀ f s, exec (h f) s = outcome (shift (op 16) (shiftOperands Reg16.part f) s))
    (long : ∀ f s, exec (l f) s = outcome (shift (op 32) (shiftOperands Reg32.part f) s))
    (correct : ∀ w d c s,
      resultFlags (op w d c s).result (op w d c s).flags ∧ claim w d c (op w d c s).result (op w d c s).flags) :
    shiftsAll b h l claim :=
  ⟨shifts_of_shift rfl (shiftOperands_fits Reg8.part_fits) byte (correct 8),
    shifts_of_shift rfl (shiftOperands_fits Reg16.part_fits) half (correct 16),
    shifts_of_shift rfl (shiftOperands_fits Reg32.part_fits) long (correct 32)⟩

/-! ### The flags of a shift (R190) -/

theorem getLsbD_iff_div_mod {w : Nat} (d : BitVec w) (i : Nat) : d.getLsbD i = true ↔ d.toNat / 2 ^ i % 2 = 1 := by
  rw [BitVec.getLsbD, Nat.testBit_eq_decide_div_mod_eq, decide_eq_true_iff]

theorem msb_iff_negative {w : Nat} (d : BitVec w) : d.msb = true ↔ d.toInt < 0 := by
  rw [BitVec.msb_eq_toInt, decide_eq_true_iff]

/-- OF is defined for a shift by 1 alone. -/
theorem shiftFlags_of_one {w : Nat} (r : BitVec w) {c : Nat} (cf of : Bool) (s : State) (one : c = 1) :
    (shiftFlags r c cf of s).of = of :=
  if_pos one

/-! ### `sal`, `shl`, `shr`, `sar` (R191 to R194) -/

theorem salEffect_leftShift {w : Nat} (d : BitVec w) (c : Nat) (s : State) :
    leftShift w d c (salEffect d c s).result (salEffect d c s).flags := by
  refine ⟨?product, fun below => ?carry, fun one => ?overflow⟩
  case product => simp [salEffect, Nat.shiftLeft_eq]
  case carry => simp [salEffect, shiftFlags, below, getLsbD_iff_div_mod]
  case overflow =>
    rw [salEffect, shiftFlags_of_one _ _ _ _ one, ← msb_iff_negative, ← Bool.eq_iff_iff]
    exact Bool.xor_iff_ne

theorem shrEffect_rightShift {w : Nat} (d : BitVec w) (c : Nat) (s : State) :
    rightShift w d c (shrEffect d c s).result (shrEffect d c s).flags := by
  refine ⟨?quotient, fun below => ?carry, fun one => ?overflow⟩
  case quotient => simp [shrEffect, Nat.shiftRight_eq_div_pow]
  case carry => simp [shrEffect, shiftFlags, below, getLsbD_iff_div_mod]
  case overflow => rw [shrEffect, shiftFlags_of_one _ _ _ _ one, msb_iff_negative]

theorem sarEffect_signedRightShift {w : Nat} (d : BitVec w) (c : Nat) (s : State) :
    signedRightShift w d c (sarEffect d c s).result (sarEffect d c s).flags := by
  refine ⟨?quotient, fun within => ?carry, fun beyond => ?signCarry, fun one => ?overflow⟩
  case quotient => simp [sarEffect, Int.shiftRight_eq_div_pow]
  case carry => simp [sarEffect, shiftFlags, within, getLsbD_iff_div_mod]
  case signCarry => simp [sarEffect, shiftFlags, Nat.not_le.2 beyond, msb_iff_negative]
  case overflow => exact shiftFlags_of_one _ _ _ _ one

/-- Settles O31: both names run `shift` with the product by `2^c` and its flags. -/
theorem leftShiftResult : Obligations.LeftShiftResult := by
  unfold Obligations.LeftShiftResult
  refine ⟨?sal, ?shl⟩
  case sal | shl =>
    exact shiftsAll_of_shift (op := @salEffect) (fun _ _ => rfl) (fun _ _ => rfl) (fun _ _ => rfl)
      fun _ d c s => ⟨resultFlags_byResult _ s.flags, salEffect_leftShift d c s⟩

/-- Settles O32: both run `shift`, `shr` with the unsigned quotient and `sar` with the signed one rounded down. -/
theorem rightShiftResult : Obligations.RightShiftResult := by
  unfold Obligations.RightShiftResult
  refine ⟨?shr, ?sar⟩
  case shr =>
    exact shiftsAll_of_shift (op := @shrEffect) (fun _ _ => rfl) (fun _ _ => rfl) (fun _ _ => rfl)
      fun _ d c s => ⟨resultFlags_byResult _ s.flags, shrEffect_rightShift d c s⟩
  case sar =>
    exact shiftsAll_of_shift (op := @sarEffect) (fun _ _ => rfl) (fun _ _ => rfl) (fun _ _ => rfl)
      fun _ d c s => ⟨resultFlags_byResult _ s.flags, sarEffect_signedRightShift d c s⟩

end Sys2Proof.Machine
end

section
/-! PROOFS of the family `45_logical_bound.md`: `and`, `or`, `xor`, `not` and `neg` (R210, R211, R213 to R215). -/

namespace Sys2Proof.Machine

/-! ### `and`, `or`, `xor` (R213 to R215) -/

/-- Settles O27: the three run `update` with the bitwise operation of their table, and share the logical flags. -/
theorem logicResult : Obligations.LogicResult := by
  unfold Obligations.LogicResult
  refine ⟨?and, ?or, ?xor⟩
  case and =>
    exact updatesAll_of_update (op := @andEffect) (fun _ _ => rfl) (fun _ _ => rfl) (fun _ _ => rfl)
      fun _ _ _ _ _ => ⟨fun _ => BitVec.getLsbD_and, logicFlags_logicalFlags _ _ _⟩
  case or =>
    exact updatesAll_of_update (op := @orEffect) (fun _ _ => rfl) (fun _ _ => rfl) (fun _ _ => rfl)
      fun _ _ _ _ _ => ⟨fun _ => BitVec.getLsbD_or, logicFlags_logicalFlags _ _ _⟩
  case xor =>
    exact updatesAll_of_update (op := @xorEffect) (fun _ _ => rfl) (fun _ _ => rfl) (fun _ _ => rfl)
      fun _ _ _ _ _ => ⟨fun _ => BitVec.getLsbD_xor, logicFlags_logicalFlags _ _ _⟩

/-! ### `not` and `neg` (R210, R211) -/

theorem notEffect_inverts {w : Nat} (d : BitVec w) (s : State) :
    (notEffect d s).result.toNat = 2 ^ w - 1 - d.toNat ∧ (notEffect d s).flags = s.flags :=
  ⟨BitVec.toNat_not, rfl⟩

/-- The most negative value alone has no negative of its width. -/
theorem toInt_neg_ne_neg_toInt_iff {w : Nat} (pos : 0 < w) (d : BitVec w) :
    (-d).toInt ≠ -d.toInt ↔ d.toNat = 2 ^ (w - 1) := by
  rw [BitVec.toInt_neg_eq_ite, ← BitVec.toNat_intMin_of_pos pos, BitVec.toNat_inj]
  split
  next least =>
    have value : d.toInt = -2 ^ (w - 1) := least ▸ BitVec.toInt_intMin_of_pos pos
    have size : (0 : Int) < 2 ^ (w - 1) := by positivity
    exact iff_of_true (by omega) least
  next other => simp [other]

/-- `neg` has the flags of `0 - d`, here in terms of `d` alone. -/
theorem negEffect_negates {w : Nat} (pos : 0 < w) (d : BitVec w) (s : State) :
    isDifference 0#w d false (negEffect d s).result ∧ resultFlags (negEffect d s).result (negEffect d s).flags ∧
      ((negEffect d s).flags.cf = true ↔ d.toNat ≠ 0) ∧ ((negEffect d s).flags.of = true ↔ d.toNat = 2 ^ (w - 1)) ∧
      ((negEffect d s).flags.af = true ↔ d.toNat % 16 ≠ 0) := by
  have difference := isDifference_sub 0#w d
  obtain ⟨byResult, overflow, halfBorrow⟩ := subFlags_differenceFlags pos difference s.flags
  have borrow := subFlags_differenceBorrow 0#w d false s.flags
  refine ⟨difference, byResult, borrow.trans ?carry, overflow.trans ?least, halfBorrow.trans ?half⟩
  case carry | half => simp [Nat.pos_iff_ne_zero]
  case least => simpa using toInt_neg_ne_neg_toInt_iff pos d

/-- Settles O30: both run `modify`, `not` with the complement and the old flags, `neg` with the difference from 0. -/
theorem notAndNegResult : Obligations.NotAndNegResult := by
  unfold Obligations.NotAndNegResult
  have byte := operandFits_map Reg8.part_fits
  have half := operandFits_map Reg16.part_fits
  have long := operandFits_map Reg32.part_fits
  refine ⟨⟨?notb, ?notw, ?notl⟩, ?negb, ?negw, ?negl⟩
  case notb => exact modifies_of_modify rfl byte (fun _ _ => rfl) notEffect_inverts
  case notw => exact modifies_of_modify rfl half (fun _ _ => rfl) notEffect_inverts
  case notl => exact modifies_of_modify rfl long (fun _ _ => rfl) notEffect_inverts
  case negb => exact modifies_of_modify rfl byte (fun _ _ => rfl) (negEffect_negates (by decide))
  case negw => exact modifies_of_modify rfl half (fun _ _ => rfl) (negEffect_negates (by decide))
  case negl => exact modifies_of_modify rfl long (fun _ _ => rfl) (negEffect_negates (by decide))

end Sys2Proof.Machine
end

section
/-! PROOFS of the family `46_multiply_divide.md`: `mul`, `imul` and `div` (R230 to R235). -/

namespace Sys2Proof.Machine

/-! ### The pair (R230) -/

/-- The high half is `%ah`, above the bits of `%al`, or a register of its own. -/
theorem readPart_acc_writePart_highPart {w : Nat} (hi : BitVec w) (s : State) :
    readPart w acc (writePart (highPart w) hi s) = readPart w acc s := by
  by_cases byte : w = 8
  · subst byte
    exact readPart_writePart_disjoint partAH acc hi s (by decide) (by decide)
  · rw [highPart, if_neg byte]
    exact readPart_writePart_other partDX acc hi s (by decide)

section
variable {w : Nat} (narrow : w ≤ 32) (hi lo : BitVec w) (s : State)
include narrow

theorem highPart_fits : (highPart w).lo + w ≤ 32 := by
  unfold highPart
  split
  next byte => subst byte; decide
  next => exact (Nat.zero_add w).trans_le narrow

theorem readPart_highPart_writePair : readPart w (highPart w) (writePair hi lo s) = hi :=
  readPart_writePart _ hi _ (highPart_fits narrow)

theorem readPart_acc_writePair : readPart w acc (writePair hi lo s) = lo :=
  (readPart_acc_writePart_highPart hi _).trans (readPart_writePart acc lo s ((Nat.zero_add w).trans_le narrow))

theorem readPair_writePair : readPair w (writePair hi lo s) = hi.toNat * 2 ^ w + lo.toNat := by
  rw [readPair, readPart_highPart_writePair narrow, readPart_acc_writePair narrow]

end

/-- The end of a multiply leaves the pair as it is. -/
theorem readPair_multiplied (w : Nat) (wide : Bool) (s t : State) : readPair w (multiplied wide s t) = readPair w t :=
  rfl

/-- A product of two `w`-bit numbers is its high half and its low half. -/
theorem halves_of_lt {w p : Nat} (h : p < 2 ^ (w * 2)) :
    (BitVec.ofNat w (p / 2 ^ w)).toNat * 2 ^ w + (BitVec.ofNat w p).toNat = p := by
  rw [mul_two, pow_add] at h
  rw [BitVec.toNat_ofNat, BitVec.toNat_ofNat, Nat.mod_eq_of_lt (Nat.div_lt_of_lt_mul h), Nat.div_add_mod']

/-- The two halves of an integer are its low `2 * w` bits. -/
theorem halves_ofInt (w : Nat) (p : Int) :
    BitVec.ofNat (2 * w) ((BitVec.ofInt w (p / 2 ^ w)).toNat * 2 ^ w + (BitVec.ofInt w p).toNat) =
      BitVec.ofInt (2 * w) p := by
  have value : ∀ q : Int, ((BitVec.ofInt w q).toNat : Int) = q % 2 ^ w := fun q => by
    simp [BitVec.toNat_ofInt, Int.emod_nonneg]
  have high : p / 2 ^ w % 2 ^ w * 2 ^ w ≡ p / 2 ^ w * 2 ^ w [ZMOD 2 ^ w * 2 ^ w] :=
    Int.ModEq.mul_right' (Int.mod_modEq _ _)
  have whole := high.add_right (p % 2 ^ w)
  rw [Int.ediv_mul_add_emod, ← pow_add, ← two_mul] at whole
  apply BitVec.eq_of_toInt_eq
  rw [← BitVec.ofInt_natCast, BitVec.toInt_ofInt, BitVec.toInt_ofInt]
  push_cast [value]
  rw [← Int.emod_bmod, ← Int.emod_bmod p]
  push_cast
  rw [whole]

/-! ### Operands that cannot be read (R68, R272) -/

section
variable {w : Nat} {x : RM Part} {s : State} (h : operandDenied .read w x s)
include h

theorem multiply_of_denied : multiply w x s = .error (.fault (.memoryAccess s.pc)) :=
  bind_error.2 (.inl (readRM_of_denied h))

theorem signedMultiply_of_denied : signedMultiply w x s = .error (.fault (.memoryAccess s.pc)) :=
  bind_error.2 (.inl (readRM_of_denied h))

theorem signedMultiplyInto_of_denied (a : BitVec w) (dst : Part) :
    signedMultiplyInto a x dst s = .error (.fault (.memoryAccess s.pc)) :=
  bind_error.2 (.inl (readRM_of_denied h))

theorem divide_of_denied : divide w x s = .error (.fault (.memoryAccess s.pc)) :=
  bind_error.2 (.inl (readRM_of_denied h))

end

/-! ### `mul` (R234) -/

theorem highHalf_ne_zero_iff (w p : Nat) : decide (p / 2 ^ w ≠ 0) = true ↔ 2 ^ w ≤ p := by
  simp [Nat.div_eq_zero_iff]

theorem multiplies_of_multiply {ρ : Type} {w : Nat} {part : ρ → Part} {mk : RM ρ → Instr} (narrow : w ≤ 32)
    (meaning : ∀ m s, exec (mk m) s = outcome (multiply w (m.map part) s)) : multiplies w part mk := by
  refine ⟨fun m s v reads => ?completes, fun m s barred => ?faults⟩
  case completes =>
    refine ⟨_, (meaning m s).trans ((outcome_next _ _).2 (multiply_ok.2 ⟨v, reads, rfl⟩)), ?product, ?carry, rfl, rfl⟩
    case product => rw [readPair_multiplied, readPair_writePair narrow, halves_of_lt BitVec.toNat_mul_toNat_lt]
    case carry => exact highHalf_ne_zero_iff w _
  case faults => exact (meaning m s).trans ((outcome_fault _ _).2 (multiply_of_denied barred))

/-- Settles O35: each width runs `multiply`, and the pair it writes holds the two halves of the product. -/
theorem multiplyResult : Obligations.MultiplyResult := by
  unfold Obligations.MultiplyResult
  refine ⟨?mulb, ?mulw, ?mull, ?mul⟩
  case mulb | mulw | mull | mul => exact multiplies_of_multiply (by decide) fun _ _ => rfl

/-! ### `imul` (R231 to R233) -/

/-- A signed product of two `w`-bit numbers fits `2 * w` bits. -/
theorem toInt_ofInt_mul {w : Nat} (pos : 0 < w) (a b : BitVec w) :
    (BitVec.ofInt (2 * w) (a.toInt * b.toInt)).toInt = a.toInt * b.toInt := by
  have wider : (2 : Int) ^ (w * 2 - 2) < 2 ^ (2 * w - 1) := pow_lt_pow_right₀ (by decide) (by omega)
  have upper := BitVec.toInt_mul_toInt_le (x := a) (y := b)
  have lower := BitVec.le_toInt_mul_toInt (x := a) (y := b)
  exact BitVec.toInt_ofInt_eq_self (by omega) (by omega) (by omega)

theorem fitsSigned_iff {w : Nat} (pos : 0 < w) (p : Int) : fitsSigned w p ↔ p = (BitVec.ofInt w p).toInt := by
  constructor
  · rintro ⟨lower, upper⟩
    exact (BitVec.toInt_ofInt_eq_self pos lower upper).symm
  · intro same
    rw [same]
    exact ⟨BitVec.le_toInt _, BitVec.toInt_lt⟩

theorem signedWide_iff {w : Nat} (pos : 0 < w) (p : Int) : signedWide w p = true ↔ ¬ fitsSigned w p := by
  rw [fitsSigned_iff pos]
  exact decide_eq_true_iff

theorem multipliesSigned_of_signedMultiply {ρ : Type} {w : Nat} {part : ρ → Part} {mk : RM ρ → Instr} (pos : 0 < w)
    (narrow : w ≤ 32) (meaning : ∀ m s, exec (mk m) s = outcome (signedMultiply w (m.map part) s)) :
    multipliesSigned w part mk := by
  refine ⟨fun m s v reads => ?completes, fun m s barred => ?faults⟩
  case completes =>
    refine ⟨_, (meaning m s).trans ((outcome_next _ _).2 (signedMultiply_ok.2 ⟨v, reads, rfl⟩)), ?product, ?carry,
      rfl, rfl⟩
    case product => rw [readPair_multiplied, readPair_writePair narrow, halves_ofInt, toInt_ofInt_mul pos]
    case carry => exact signedWide_iff pos _
  case faults => exact (meaning m s).trans ((outcome_fault _ _).2 (signedMultiply_of_denied barred))

theorem multipliesInto_of_imulForm {ρ : Type} {w : Nat} {part : ρ → Part} {mk : ImulForm ρ w → Instr} (pos : 0 < w)
    (fits : ∀ r, (part r).lo + w ≤ 32) (meaning : ∀ f s, exec (mk f) s = outcome (imulForm part f s)) :
    multipliesInto w part mk := by
  intro m dst s f a chosen
  have form : imulForm part f s = signedMultiplyInto a (m.map part) (part dst) s := by
    rcases chosen with ⟨rfl, rfl⟩ | rfl | ⟨i, rfl, rfl⟩ <;> rfl
  rw [memoryFaults, meaning, form]
  refine ⟨fun v reads => ?completes, fun barred => ?faults⟩
  case completes =>
    exact ⟨_, (outcome_next _ _).2 (signedMultiplyInto_ok.2 ⟨v, reads, rfl⟩), readPart_writePart _ _ s (fits dst),
      signedWide_iff pos _, rfl, rfl⟩
  case faults => exact (outcome_fault _ _).2 (signedMultiplyInto_of_denied barred a _)

/-- Settles O36: one operand runs `signedMultiply` into the pair, two and three run `signedMultiplyInto` a register. -/
theorem signedMultiplyResult : Obligations.SignedMultiplyResult := by
  unfold Obligations.SignedMultiplyResult
  refine ⟨?imulb, ?imulw, ?imull, ?imul, ?imulwInto, ?imullInto, ?imulInto⟩
  case imulb | imulw | imull | imul => exact multipliesSigned_of_signedMultiply (by decide) (by decide) fun _ _ => rfl
  case imulwInto => exact multipliesInto_of_imulForm (by decide) Reg16.part_fits fun _ _ => rfl
  case imullInto | imulInto => exact multipliesInto_of_imulForm (by decide) Reg32.part_fits fun _ _ => rfl

/-! ### `div` (R235) -/

/-- Both reasons for `#DE`: there is no quotient, or it has more than `w` bits. -/
theorem divide_of_undefined {w : Nat} {x : RM Part} {s : State} {v : BitVec w} (reads : readRM w x s = .ok v)
    (h : v.toNat = 0 ∨ 2 ^ w * v.toNat ≤ readPair w s) : divide w x s = .error (.fault (.divideError s.pc)) := by
  refine bind_error.2 (.inr ⟨v, reads, ?_⟩)
  by_cases zero : v.toNat = 0
  · simp [zero]
  · have oversize : 2 ^ w ≤ readPair w s / v.toNat :=
      (Nat.le_div_iff_mul_le (Nat.pos_of_ne_zero zero)).2 (h.resolve_left zero)
    simp [zero, oversize]

/-- The quotient and the remainder each fit `w` bits, so their registers hold them. -/
theorem divide_completes {w : Nat} (narrow : w ≤ 32) {x : RM Part} {s : State} {v : BitVec w}
    (reads : readRM w x s = .ok v) (nonzero : v.toNat ≠ 0) (small : readPair w s < 2 ^ w * v.toNat) :
    ∃ t, divide w x s = .ok t ∧ (readPart w acc t).toNat = readPair w s / v.toNat ∧
      (readPart w (highPart w) t).toNat = readPair w s % v.toNat ∧ advances s t := by
  have pos := Nat.pos_of_ne_zero nonzero
  have quotientFits : readPair w s / v.toNat < 2 ^ w := (Nat.div_lt_iff_lt_mul pos).2 small
  have remainderFits : readPair w s % v.toNat < 2 ^ w := (Nat.mod_lt _ pos).trans v.isLt
  refine ⟨_, divide_ok.2 ⟨v, reads, nonzero, quotientFits, rfl⟩, ?quotient, ?remainder, rfl⟩
  case quotient =>
    exact (congrArg BitVec.toNat (readPart_acc_writePair narrow _ _ s)).trans (Nat.mod_eq_of_lt quotientFits)
  case remainder =>
    exact (congrArg BitVec.toNat (readPart_highPart_writePair narrow _ _ s)).trans (Nat.mod_eq_of_lt remainderFits)

theorem divides_of_divide {ρ : Type} {w : Nat} {part : ρ → Part} {mk : RM ρ → Instr} (narrow : w ≤ 32)
    (meaning : ∀ m s, exec (mk m) s = outcome (divide w (m.map part) s)) : divides w part mk := by
  refine ⟨fun m s v reads => ⟨fun nonzero small => ?completes, fun undefined => ?divideError⟩,
    fun m s barred => ?faults⟩
  case completes =>
    obtain ⟨t, completes, quotient, remainder, next⟩ := divide_completes narrow reads nonzero small
    refine ⟨t, (meaning m s).trans ((outcome_next _ _).2 completes), ?_, ?_, next⟩
    · rw [quotient, remainder, Nat.div_add_mod']
    · rw [remainder]
      exact Nat.mod_lt _ (Nat.pos_of_ne_zero nonzero)
  case divideError => exact (meaning m s).trans ((outcome_fault _ _).2 (divide_of_undefined reads undefined))
  case faults => exact (meaning m s).trans ((outcome_fault _ _).2 (divide_of_denied barred))

/-- Settles O37: each width runs `divide`, which completes exactly when its quotient fits its register. -/
theorem divideResult : Obligations.DivideResult := by
  unfold Obligations.DivideResult
  refine ⟨?divb, ?divw, ?divl, ?div⟩
  case divb | divw | divl | div => exact divides_of_divide (by decide) fun _ _ => rfl

end Sys2Proof.Machine
end

section
/-! PROOFS of the family `47_control_transfer_supplement.md`: `jmp` and the conditional jumps (R250 to R252). -/

namespace Sys2Proof.Machine

/-! ### The target (R251) -/

theorem displacement_eq_ofInt_distance (f : JumpForm) : displacement f = BitVec.ofInt 32 (distance f) := by
  cases f with
  | disp8 d => rfl
  | disp32 d => exact BitVec.ofInt_toInt.symm

/-- A signed distance from `pc_next`, reduced modulo `2^32` once. -/
theorem State.ofInt_pc_add_len_add (s : State) (d : Int) :
    BitVec.ofInt 32 (s.pc.toNat + s.len.toNat + d) = s.pcNext + BitVec.ofInt 32 d := by
  simp [State.pcNext, BitVec.ofInt_add]

/-! ### The conditions (R250, R252) -/

/-- Each conditional jump runs `jumpIf` under its condition; synonyms share one. -/
theorem exec_eq_jumpIf_of_mem_conditions :
    ∀ c ∈ conditions, ∃ k : Cond, c.2 = k.holds ∧ ∀ f s, exec (c.1 f) s = outcome (jumpIf k f s) := by
  simp only [conditions, conditionsA, conditionsB, conditionsC, List.cons_append, List.nil_append,
    List.forall_mem_cons]
  refine ⟨?jo, ?jno, ?jb, ?jc, ?jnae, ?jae, ?jnb, ?jnc, ?je, ?jz, ?jne, ?jnz, ?jbe, ?jna, ?ja, ?jnbe, ?js, ?jns,
    ?jp, ?jpe, ?jnp, ?jpo, ?jl, ?jnge, ?jge, ?jnl, ?jle, ?jng, ?jg, ?jnle, List.forall_mem_nil _⟩
  case jo => exact ⟨.o, rfl, fun _ _ => rfl⟩
  case jno => exact ⟨.no, rfl, fun _ _ => rfl⟩
  case jb | jc | jnae => exact ⟨.b, rfl, fun _ _ => rfl⟩
  case jae | jnb | jnc => exact ⟨.ae, rfl, fun _ _ => rfl⟩
  case je | jz => exact ⟨.e, rfl, fun _ _ => rfl⟩
  case jne | jnz => exact ⟨.ne, rfl, fun _ _ => rfl⟩
  case jbe | jna => exact ⟨.be, rfl, fun _ _ => rfl⟩
  case ja | jnbe => exact ⟨.a, rfl, fun _ _ => rfl⟩
  case js => exact ⟨.s, rfl, fun _ _ => rfl⟩
  case jns => exact ⟨.ns, rfl, fun _ _ => rfl⟩
  case jp | jpe => exact ⟨.p, rfl, fun _ _ => rfl⟩
  case jnp | jpo => exact ⟨.np, rfl, fun _ _ => rfl⟩
  case jl | jnge => exact ⟨.l, rfl, fun _ _ => rfl⟩
  case jge | jnl => exact ⟨.ge, rfl, fun _ _ => rfl⟩
  case jle | jng => exact ⟨.le, rfl, fun _ _ => rfl⟩
  case jg | jnle => exact ⟨.g, rfl, fun _ _ => rfl⟩

theorem exec_jmp (f : JumpForm) (s : State) : exec (.jmp f) s = .next (s.jumpTo (s.pcNext + displacement f)) :=
  (outcome_next _ _).2 (jump_ok.2 rfl)

theorem exec_conditionalJump {c : (JumpForm → Instr) × (Flags → Bool)} (mem : c ∈ conditions) (f : JumpForm)
    (s : State) :
    exec (c.1 f) s = .next (if c.2 s.flags then s.jumpTo (s.pcNext + displacement f) else s.advance) := by
  obtain ⟨k, condition, meaning⟩ := exec_eq_jumpIf_of_mem_conditions c mem
  rw [meaning, condition]
  exact (outcome_next _ _).2 (jumpIf_ok.2 rfl)

/-- Settles O39: `jmp` adds the displacement to `pc_next`, and each conditional jump does so under its condition. -/
theorem jumpResult : Obligations.JumpResult := by
  unfold Obligations.JumpResult
  refine fun f s => ⟨⟨_, exec_jmp f s, ?target, rfl, rfl, rfl⟩, fun c mem => ?conditional⟩
  case target => rw [State.ofInt_pc_add_len_add, ← displacement_eq_ofInt_distance, State.jumpTo_pc]
  case conditional =>
    rw [exec_conditionalJump mem, State.ofInt_pc_add_len_add]
    split
    next taken => exact ⟨_, rfl, rfl, rfl, rfl, by rw [← displacement_eq_ofInt_distance, State.jumpTo_pc]⟩
    next notTaken => exact ⟨_, rfl, rfl, rfl, rfl, by simp⟩

end Sys2Proof.Machine
end

section
/-! PROOFS of the family `60_exceptions.md`: `bound` and Interrupt 5 (R212, R260). -/

namespace Sys2Proof.Machine

/-! ### The three ends of `checkBounds`: inside, outside, a bound that cannot be read -/

theorem checkBounds_of_within {w : Nat} {i : Part} {m : MemOp} {s : State} {lower upper : BitVec w}
    (readsLower : load w (operandAddress s m) s = .ok lower)
    (readsUpper : load w (upperBoundAddress w m s) s = .ok upper)
    (within : lower.toInt ≤ (readPart w i s).toInt ∧ (readPart w i s).toInt ≤ upper.toInt) :
    checkBounds w i m s = .ok s.advance :=
  checkBounds_ok.2 ⟨lower, upper, readsLower, readsUpper, within.1, within.2, rfl⟩

theorem checkBounds_of_outside {w : Nat} {i : Part} {m : MemOp} {s : State} {lower upper : BitVec w}
    (readsLower : load w (operandAddress s m) s = .ok lower)
    (readsUpper : load w (upperBoundAddress w m s) s = .ok upper)
    (outside : (readPart w i s).toInt < lower.toInt ∨ upper.toInt < (readPart w i s).toInt) :
    checkBounds w i m s = .error (.fault (.boundRange s.pc)) := by
  simp [checkBounds, readsLower, readsUpper, outside]

/-- The upper bound is read only where the lower one could be. -/
theorem checkBounds_of_denied {w : Nat} {i : Part} {m : MemOp} {s : State}
    (barred : denied .read (operandAddress s m) (w / 8) s ∨
      s.canRead (operandAddress s m) (w / 8) ∧ denied .read (upperBoundAddress w m s) (w / 8) s) :
    checkBounds w i m s = .error (.fault (.memoryAccess s.pc)) := by
  obtain barredLower | ⟨readable, barredUpper⟩ := barred
  · exact bind_error.2 (.inl (load_error.2 (checkAccess_of_denied barredLower)))
  · exact bind_error.2 (.inr ⟨_, load_eq readable,
      bind_error.2 (.inl (load_error.2 (checkAccess_of_denied barredUpper)))⟩)

theorem checksBounds_of_checkBounds {ρ : Type} {w : Nat} {part : ρ → Part} {mk : ρ → MemOp → Instr}
    (meaning : ∀ x m s, exec (mk x m) s = outcome (checkBounds w (part x) m s)) : checksBounds w part mk := by
  refine ⟨fun x m s lower upper readsLower readsUpper => ⟨fun within => ?completes, fun outside => ?interrupts⟩,
    fun x m s barred => ?faults⟩
  case completes =>
    exact ⟨s.advance, (meaning x m s).trans ((outcome_next _ _).2 (checkBounds_of_within readsLower readsUpper within)),
      rfl, rfl, rfl, rfl⟩
  case interrupts =>
    exact (meaning x m s).trans ((outcome_fault _ _).2 (checkBounds_of_outside readsLower readsUpper outside))
  case faults => exact (meaning x m s).trans ((outcome_fault _ _).2 (checkBounds_of_denied barred))

/-- Settles O38: both widths run `checkBounds`, whose comparison alone decides between the next `pc` and `#BR`. -/
theorem boundResult : Obligations.BoundResult := by
  unfold Obligations.BoundResult
  refine ⟨?boundw, ?boundl⟩
  case boundw | boundl => exact checksBounds_of_checkBounds fun _ _ _ => rfl

end Sys2Proof.Machine
end

section
/-! PROOFS of the statements about every instruction and every step: what an instruction may change. Each meaning is
held to one record of its rows in the tables of Safety.lean; the frames and the invariants are read off it. -/

namespace Sys2Proof.Machine

/-! ### Classes of flags (R26) -/

theorem FlagClass.allows_refl (c : FlagClass) (f : Flags) : c.allows f f := by cases c <;> rfl

/-- No class holds TF, RF, VM or AC. -/
theorem FlagClass.allows_keepsTrapFlags {c : FlagClass} {new old : Flags} (h : c.allows new old) :
    new.tf = old.tf ∧ new.rf = old.rf ∧ new.vm = old.vm ∧ new.ac = old.ac := by
  cases c <;>
    exact ⟨(congrArg Flags.tf h :), (congrArg Flags.rf h :), (congrArg Flags.vm h :), (congrArg Flags.ac h :)⟩

/-- The classes that hold IF or IOPL: those of `cli`, `sti` and of `popf`. -/
def FlagClass.privileged : FlagClass → Bool
  | .interrupt | .image => true
  | .kept | .status | .statusButCarry | .byteLoaded | .carry | .direction => false

theorem guardedFlagsKept_of_allows {c : FlagClass} {s t : State} (plain : c.privileged = false)
    (h : c.allows t.flags s.flags) : guardedFlagsKept s t := by
  cases c with
  | interrupt | image => exact nomatch plain
  | kept | status | statusButCarry | byteLoaded | carry | direction =>
    exact ⟨fun _ => (congrArg Flags.iopl h :), fun _ => (congrArg Flags.intf h :)⟩

/-! ### The footprint of an instruction -/

/-- What an instruction may change; a field left out allows nothing. -/
structure Footprint where
  parts   : List (Part × Nat) := []
  stored  : Option (Word × Nat) := none
  segs    : List SReg := []
  flags   : FlagClass := .kept
  ports   : Bool := false
  jumps   : Bool := false
  repeats : Bool := false
  casts   : Bool := false

/-- The rows of Safety.lean's tables for an instruction. -/
def footprint (i : Instr) (s : State) : Footprint where
  parts   := writtenParts i
  stored  := storedBytes i s
  segs    := writtenSegments i
  flags   := flagClass i
  ports   := isPortAccess i
  jumps   := isJump i
  repeats := isRepeated i
  casts   := castsShadow i

/-- `t` differs from `s` within a footprint at most, as at the end of an instruction. A field left out is one that
computing `t` from `s` shows. -/
structure Within (f : Footprint) (s t : State) : Prop where
  system  : keepsSystem s t := by exact ⟨rfl, rfl, rfl⟩
  segs    : ∀ r, r ∉ f.segs → t.seg.get r = s.seg.get r := by exact fun _ _ => rfl
  flags   : f.flags.allows t.flags s.flags := by exact rfl
  guarded : guardedFlagsKept s t := by exact ⟨fun _ => rfl, fun _ => rfl⟩
  bits    : ∀ r b, outsideParts f.parts r b → (t.gpr.get r).getLsbD b = (s.gpr.get r).getLsbD b := by
    exact fun _ _ _ => rfl
  memory  : t.mem = s.mem ∨
    ∃ a n v, f.stored = some (a, n) ∧ s.canWrite a n ∧ t.mem = s.mem.writeLE a.toNat v n := by exact .inl rfl
  events  : t.portLog = s.portLog ∨ ∃ e, t.portLog = s.portLog ++ [e] := by exact .inl rfl
  ports   : f.ports = false → keepsPorts s t := by exact fun _ => ⟨rfl, rfl⟩
  ends    : f.repeats = false ∨ s.gpr.ecx = 0#32 ∨ s.gpr.ecx = 1#32 →
    (f.jumps = false → t.pc = s.pcNext) ∧ t.shadow = f.casts := by exact fun _ => ⟨fun _ => rfl, rfl⟩

/-! ### Register parts -/

theorem outsideParts_cons {p : Part × Nat} {ps : List (Part × Nat)} {r : Reg32} {b : Nat} :
    outsideParts (p :: ps) r b ↔ outsideParts [p] r b ∧ outsideParts ps r b := by
  simp [outsideParts]

/-- A long register is outside its own part in no bit. -/
theorem setReg_get_outside {q r : Reg32} {b : Nat} (v : Word) (s : State)
    (out : outsideParts [(Reg32.part q, 32)] r b) :
    ((s.setReg q v).gpr.get r).getLsbD b = (s.gpr.get r).getLsbD b := by
  rw [← writePart_reg32]
  exact writePart_getLsbD_outside _ v s (Reg32.part_fits q) out

theorem dshiftOperands_fits {ρ : Type} {w : Nat} {part : ρ → Part} (fits : ∀ r, (part r).lo + w ≤ 32)
    (f : DShiftForm ρ) : operandFits w (dshiftOperands part f).2.2 := by
  cases f <;> exact operandFits_map fits _

theorem popOperand_fits (f : PopForm) : operandFits 16 (popOperand f) := by
  cases f with
  | reg r => rintro _ ⟨⟩; exact Reg16.part_fits r
  | rm m => exact operandFits_map Reg16.part_fits m

/-! ### Operations that write an operand and the flags (R160, R190) -/

section
variable {w : Nat} {c : FlagClass} {s t : State}

theorem advance_within (parts : List (Part × Nat)) (stored : Option (Word × Nat)) (c : FlagClass) (s : State) :
    Within { parts, stored, flags := c } s s.advance where
  flags := c.allows_refl _

theorem writeBack_within {e : Effect w} {x : RM Part} (fits : operandFits w x) (allowed : c.allows e.flags s.flags)
    (plain : c.privileged = false) (h : writeBack e (locate s x) s = .ok t) :
    Within { parts := destParts w x, stored := destBytes w x s, flags := c } s t := by
  obtain ⟨u, writes, rfl⟩ := writeBack_ok.1 h
  cases x with
  | reg p =>
    obtain rfl := ok_eq.1 writes
    exact {
      flags := allowed
      guarded := guardedFlagsKept_of_allows plain allowed
      bits := fun _ _ => writePart_getLsbD_outside p _ s (fits p rfl) }
  | mem m =>
    obtain ⟨writable, rfl⟩ := store_ok.1 writes
    exact {
      flags := allowed
      guarded := guardedFlagsKept_of_allows plain allowed
      memory := .inr ⟨_, _, _, rfl, writable, rfl⟩ }

theorem update_within {op : BitVec w → BitVec w → State → Effect w} {x : Src w × RM Part}
    (h : outcome (update op x s) = .next t) (fits : operandFits w x.2)
    (allowed : ∀ d v, FlagClass.status.allows (op d v s).flags s.flags) :
    Within { parts := destParts w x.2, stored := destBytes w x.2 s, flags := .status } s t := by
  obtain ⟨v, d, -, -, writes⟩ := update_ok.1 ((outcome_next _ _).1 h)
  exact writeBack_within fits (allowed d v) rfl writes

theorem compare_within {op : BitVec w → BitVec w → State → Effect w} {x : Src w × RM Part}
    (h : outcome (compare op x s) = .next t) (allowed : ∀ d v, FlagClass.status.allows (op d v s).flags s.flags) :
    Within { flags := .status } s t := by
  obtain ⟨v, d, -, -, rfl⟩ := compare_ok.1 ((outcome_next _ _).1 h)
  exact {
    flags := allowed d v
    guarded := guardedFlagsKept_of_allows (c := .status) rfl (allowed d v) }

theorem modify_within {op : BitVec w → State → Effect w} {x : RM Part} (h : outcome (modify op x s) = .next t)
    (fits : operandFits w x) (plain : c.privileged = false)
    (allowed : ∀ d, c.allows (op d s).flags s.flags) :
    Within { parts := destParts w x, stored := destBytes w x s, flags := c } s t := by
  obtain ⟨d, -, writes⟩ := modify_ok.1 ((outcome_next _ _).1 h)
  exact writeBack_within fits (allowed d) plain writes

/-- A shift by 0 stores nothing, so its row has no bytes. -/
theorem writeBack_within_shifted {e : Effect w} {k : Count} {x : RM Part} (fits : operandFits w x)
    (nonzero : countValue s k ≠ 0) (allowed : FlagClass.status.allows e.flags s.flags)
    (h : writeBack e (locate s x) s = .ok t) :
    Within { parts := destParts w x, stored := shiftedBytes w k x s, flags := .status } s t := by
  rw [shiftedBytes, if_neg nonzero]
  exact writeBack_within fits allowed rfl h

theorem shift_within {op : BitVec w → Nat → State → Effect w} {x : Count × RM Part}
    (h : outcome (shift op x s) = .next t) (fits : operandFits w x.2)
    (allowed : ∀ d k, FlagClass.status.allows (op d k s).flags s.flags) :
    Within { parts := destParts w x.2, stored := shiftedBytes w x.1 x.2 s, flags := .status } s t := by
  obtain ⟨d, -, ⟨-, rfl⟩ | ⟨nonzero, writes⟩⟩ := shift_ok.1 ((outcome_next _ _).1 h)
  · exact advance_within _ _ _ s
  · exact writeBack_within_shifted fits nonzero (allowed d _) writes

theorem doubleShift_within {op : BitVec w → BitVec w → Nat → State → Effect w} {x : Count × Part × RM Part}
    (h : outcome (doubleShift op x s) = .next t) (fits : operandFits w x.2.2)
    (allowed : ∀ d v k, FlagClass.status.allows (op d v k s).flags s.flags) :
    Within { parts := destParts w x.2.2, stored := shiftedBytes w x.1 x.2.2 s, flags := .status } s t := by
  obtain ⟨d, -, ⟨-, rfl⟩ | ⟨nonzero, writes⟩⟩ := doubleShift_ok.1 ((outcome_next _ _).1 h)
  · exact advance_within _ _ _ s
  · exact writeBack_within_shifted fits nonzero (allowed d _ _) writes

theorem shldEffect_allowed (d v : BitVec w) (k : Nat) (s : State) :
    FlagClass.status.allows (shldEffect d v k s).flags s.flags := by
  unfold shldEffect
  split <;> rfl

theorem shrdEffect_allowed (d v : BitVec w) (k : Nat) (s : State) :
    FlagClass.status.allows (shrdEffect d v k s).flags s.flags := by
  unfold shrdEffect
  split <;> rfl

/-! ### Multiply, divide, bounds -/

theorem writePair_getLsbD_outside (narrow : w ≤ 32) (hi lo : BitVec w) (s : State) {r : Reg32} {b : Nat}
    (out : outsideParts (pairParts w) r b) :
    ((writePair hi lo s).gpr.get r).getLsbD b = (s.gpr.get r).getLsbD b := by
  obtain ⟨outHigh, outLow⟩ := outsideParts_cons.1 out
  exact (writePart_getLsbD_outside _ hi _ (highPart_fits narrow) outHigh).trans
    (writePart_getLsbD_outside acc lo s ((Nat.zero_add w).trans_le narrow) outLow)

theorem multiply_within {x : RM Part} (narrow : w ≤ 32) (h : outcome (multiply w x s) = .next t) :
    Within { parts := pairParts w, flags := .status } s t := by
  obtain ⟨v, -, rfl⟩ := multiply_ok.1 ((outcome_next _ _).1 h)
  exact { bits := fun _ _ => writePair_getLsbD_outside narrow _ _ s }

theorem signedMultiply_within {x : RM Part} (narrow : w ≤ 32) (h : outcome (signedMultiply w x s) = .next t) :
    Within { parts := pairParts w, flags := .status } s t := by
  obtain ⟨v, -, rfl⟩ := signedMultiply_ok.1 ((outcome_next _ _).1 h)
  exact { bits := fun _ _ => writePair_getLsbD_outside narrow _ _ s }

theorem signedMultiplyInto_within {a : BitVec w} {x : RM Part} {dst : Part} (fits : dst.lo + w ≤ 32)
    (h : outcome (signedMultiplyInto a x dst s) = .next t) :
    Within { parts := [(dst, w)], flags := .status } s t := by
  obtain ⟨v, -, rfl⟩ := signedMultiplyInto_ok.1 ((outcome_next _ _).1 h)
  exact { bits := fun _ _ => writePart_getLsbD_outside dst _ s fits }

theorem imulForm_within {ρ : Type} {part : ρ → Part} {f : ImulForm ρ w} (narrow : w ≤ 32)
    (fits : ∀ r, (part r).lo + w ≤ 32) (h : outcome (imulForm part f s) = .next t) :
    Within { parts := imulParts part f, flags := .status } s t := by
  cases f with
  | one m => exact signedMultiply_within narrow h
  | two _ r | three8 _ _ r | three _ _ r => exact signedMultiplyInto_within (fits r) h

theorem divide_within {x : RM Part} (narrow : w ≤ 32) (h : outcome (divide w x s) = .next t) :
    Within { parts := pairParts w, flags := .status } s t := by
  obtain ⟨v, -, -, -, rfl⟩ := divide_ok.1 ((outcome_next _ _).1 h)
  exact { bits := fun _ _ => writePair_getLsbD_outside narrow _ _ s }

theorem checkBounds_within {x : Part} {m : MemOp} (h : outcome (checkBounds w x m s) = .next t) :
    Within {} s t := by
  obtain ⟨_, _, -, -, -, -, rfl⟩ := checkBounds_ok.1 ((outcome_next _ _).1 h)
  exact {}

/-! ### Segment registers and the stack -/

/-- The shadow of a load of `r` is the one of an instruction whose row of segment registers is `r`. -/
theorem shadow_of_load (r : SReg) : (r == .ss) = [r].contains .ss := by cases r <;> rfl

theorem loadPointer_within {r : SReg} {m : MemOp} {dst : Part} (fits : dst.lo + w ≤ 32)
    (h : outcome (loadPointer w r m dst s) = .next t) :
    Within { parts := [(dst, w)], segs := [r], casts := [r].contains .ss } s t := by
  obtain ⟨off, sel, -, -, -, -, rfl⟩ := loadPointer_ok.1 ((outcome_next _ _).1 h)
  exact {
    segs := fun _ other => SegRegs.get_set_other _ _ (List.ne_of_not_mem_cons other)
    bits := fun _ _ => writePart_getLsbD_outside dst off _ fits
    ends := fun _ => ⟨fun _ => rfl, shadow_of_load r⟩ }

/-- A memory destination of `pop` is stored to as the state with `%esp` moved up sees it. -/
theorem popInto_within {x : RM Part} (fits : operandFits w x) (h : outcome (popInto w x s) = .next t) :
    Within { parts := espPart :: destParts w x, stored := destBytes w x (s.popped w) } s t := by
  obtain ⟨v, u, -, writes, rfl⟩ := popInto_ok.1 ((outcome_next _ _).1 h)
  cases x with
  | reg p =>
    obtain rfl := ok_eq.1 writes
    refine { bits := fun r b out => ?_ }
    obtain ⟨outEsp, outDst⟩ := outsideParts_cons.1 out
    exact (writePart_getLsbD_outside p v (s.popped w) (fits p rfl) outDst).trans (setReg_get_outside _ s outEsp)
  | mem m =>
    obtain ⟨writable, rfl⟩ := store_ok.1 writes
    exact {
      bits := fun _ _ => setReg_get_outside _ s
      memory := .inr ⟨_, _, _, rfl, (canWrite_congr rfl _ _).1 writable, rfl⟩ }

theorem popSegment_within {r : SReg} (h : outcome (popSegment r s) = .next t) :
    Within { parts := [espPart], segs := [r], casts := [r].contains .ss } s t := by
  obtain ⟨v, -, -, rfl⟩ := popSegment_ok.1 ((outcome_next _ _).1 h)
  exact {
    segs := fun _ other => SegRegs.get_set_other _ _ (List.ne_of_not_mem_cons other)
    bits := fun _ _ => setReg_get_outside _ s
    ends := fun _ => ⟨fun _ => rfl, shadow_of_load r⟩ }

/-- What a push changes, whatever draws its instruction makes. -/
theorem push_within {v : BitVec w} {u : State} (k : Nat) (h : push v s = .ok u) :
    Within { parts := [espPart], stored := some (pushAddress w s, w / 8) } s (u.drew k).advance := by
  obtain ⟨writable, rfl⟩ := push_ok.1 h
  exact {
    bits := fun _ _ => setReg_get_outside _ s
    memory := .inr ⟨_, _, _, rfl, writable, rfl⟩ }

theorem pushFrom_within {x : Src w} (h : outcome (pushFrom x s) = .next t) :
    Within { parts := [espPart], stored := some (pushAddress w s, w / 8) } s t := by
  obtain ⟨v, u, -, pushed, rfl⟩ := pushFrom_ok.1 ((outcome_next _ _).1 h)
  exact push_within 0 pushed

theorem pushSegment_within {r : SReg} (h : outcome (pushSegment r s) = .next t) :
    Within { parts := [espPart], stored := some (pushAddress 32 s, 4) } s t := by
  obtain ⟨u, pushed, rfl⟩ := pushSegment_ok.1 ((outcome_next _ _).1 h)
  exact push_within 1 pushed

theorem pushFlags_within (h : outcome (pushFlags w s) = .next t) :
    Within { parts := [espPart], stored := some (pushAddress w s, w / 8) } s t := by
  obtain ⟨u, pushed, rfl⟩ := pushFlags_ok.1 ((outcome_next _ _).1 h)
  exact push_within 5 pushed

/-! ### Flags -/

/-- `popf` takes IOPL and IF from the image only at the privilege that allows it (R142). -/
theorem popFlags_within (h : outcome (popFlags w s) = .next t) :
    Within { parts := [espPart], flags := .image } s t := by
  obtain ⟨v, -, -, -, rfl⟩ := popFlags_ok.1 ((outcome_next _ _).1 h)
  exact {
    bits := fun _ _ => setReg_get_outside _ s
    guarded := ⟨fun outer => if_neg outer, fun outer => if_neg (Nat.not_le.2 outer)⟩ }

theorem changeFlags_within {f : Flags} (h : outcome (changeFlags f s) = .next t) (plain : c.privileged = false)
    (allowed : c.allows f s.flags) : Within { flags := c } s t := by
  obtain rfl := changeFlags_ok.1 ((outcome_next _ _).1 h)
  exact { flags := allowed, guarded := guardedFlagsKept_of_allows plain allowed }

theorem loadFlagByte_within (h : outcome (loadFlagByte s) = .next t) : Within { parts := [(partAH, 8)] } s t := by
  obtain rfl := loadFlagByte_ok.1 ((outcome_next _ _).1 h)
  exact { bits := fun _ _ => writePart_getLsbD_outside partAH _ s (by decide) }

theorem clearInterrupt_within (h : outcome (clearInterrupt s) = .next t) :
    Within { flags := .interrupt } s t := by
  obtain ⟨privileged, rfl⟩ := clearInterrupt_ok.1 ((outcome_next _ _).1 h)
  exact { guarded := ⟨fun _ => rfl, fun outer => absurd privileged (Nat.not_le.2 outer)⟩ }

theorem setInterrupt_within (h : outcome (setInterrupt s) = .next t) :
    Within { flags := .interrupt, casts := true } s t := by
  obtain ⟨privileged, rfl⟩ := setInterrupt_ok.1 ((outcome_next _ _).1 h)
  exact { guarded := ⟨fun _ => rfl, fun outer => absurd privileged (Nat.not_le.2 outer)⟩ }

/-! ### Ports (R120 to R126) -/

theorem portIn_within {f : PortForm} (narrow : w ≤ 32) (h : outcome (portIn w f s) = .next t) :
    Within { parts := [(acc, w)], ports := true } s t := by
  obtain ⟨-, -, rfl⟩ := portIn_ok.1 ((outcome_next _ _).1 h)
  exact {
    bits := fun _ _ => writePart_getLsbD_outside acc _ (s.afterPortRead w _) ((Nat.zero_add w).trans_le narrow)
    events := .inr ⟨_, rfl⟩
    ports := fun impossible => nomatch impossible }

theorem portOut_within {f : PortForm} (h : outcome (portOut w f s) = .next t) : Within { ports := true } s t := by
  obtain ⟨-, -, rfl⟩ := portOut_ok.1 ((outcome_next _ _).1 h)
  exact { events := .inr ⟨_, rfl⟩, ports := fun impossible => nomatch impossible }

theorem insOnce_within {u : State} (h : insOnce w s = .ok u) :
    Within { parts := [ediPart], stored := some (insAddress s, w / 8), ports := true } s u.advance := by
  obtain ⟨-, writable, -, rfl⟩ := insOnce_ok.1 h
  exact {
    bits := fun _ _ => setReg_get_outside _ s
    memory := .inr ⟨_, _, _, rfl, writable, rfl⟩
    events := .inr ⟨_, rfl⟩
    ports := fun impossible => nomatch impossible }

theorem outsOnce_within {g : Option SReg} {u : State} (h : outsOnce w g s = .ok u) :
    Within { parts := [esiPart], ports := true } s u.advance := by
  obtain ⟨_, _, -, -, -, -, rfl⟩ := outsOnce_ok.1 h
  exact {
    bits := fun _ _ => setReg_get_outside _ s
    events := .inr ⟨_, rfl⟩
    ports := fun impossible => nomatch impossible }

theorem insOnce_keepsCount {u : State} (h : insOnce w s = .ok u) : u.gpr.ecx = s.gpr.ecx := by
  obtain ⟨-, -, -, rfl⟩ := insOnce_ok.1 h
  rfl

theorem outsOnce_keepsCount {g : Option SReg} {u : State} (h : outsOnce w g s = .ok u) : u.gpr.ecx = s.gpr.ecx := by
  obtain ⟨_, _, -, -, -, -, rfl⟩ := outsOnce_ok.1 h
  rfl

theorem single_within {once : State → Except Stop State} {f : Footprint}
    (transfer : ∀ {u}, once s = .ok u → Within f s u.advance) (h : outcome (single once s) = .next t) :
    Within f s t := by
  obtain ⟨u, transferred, rfl⟩ := single_ok.1 ((outcome_next _ _).1 h)
  exact transfer transferred

/-- One iteration is a transfer and a count; the last one ends the instruction, and none is made for a count of 0. -/
theorem repeated_within {once : State → Except Stop State} {q : Part × Nat} {stored : Option (Word × Nat)}
    (transfer : ∀ {u}, s.gpr.ecx ≠ 0#32 → once s = .ok u →
      Within { parts := [q], stored, ports := true } s u.advance)
    (keepsCount : ∀ {u}, once s = .ok u → u.gpr.ecx = s.gpr.ecx) (h : outcome (repeated once s) = .next t) :
    Within { parts := [q, ecxPart], stored, ports := true, repeats := true } s t := by
  obtain ⟨-, rfl⟩ | ⟨nonzero, u, transferred, rfl⟩ := repeated_ok.1 ((outcome_next _ _).1 h)
  · exact {}
  have within := transfer nonzero transferred
  have count := keepsCount transferred
  have bits : ∀ v r b, outsideParts [q, ecxPart] r b →
      ((u.setReg .ecx v).gpr.get r).getLsbD b = (s.gpr.get r).getLsbD b := fun v r b out => by
    obtain ⟨outItem, outCount⟩ := outsideParts_cons.1 out
    exact (setReg_get_outside v u outCount).trans (within.bits r b outItem)
  obtain ⟨-, ends⟩ | ⟨more, ends⟩ := countDown_cases u
  · rw [ends]
    exact { within with bits := bits _, ends := fun _ => ⟨(within.ends (.inl rfl)).1, rfl⟩ }
  · rw [ends]
    rw [count] at more
    refine { within with bits := bits _, ends := fun last => ?_ }
    obtain impossible | zero | one := last
    · exact nomatch impossible
    · exact absurd zero nonzero
    · exact absurd one more

theorem repeatedIns_within (h : outcome (repeated (insOnce w) s) = .next t) :
    Within { parts := [ediPart, ecxPart], stored := if s.gpr.ecx = 0#32 then none else some (insAddress s, w / 8)
             ports := true, repeats := true } s t := by
  refine repeated_within (fun nonzero transferred => ?_) insOnce_keepsCount h
  rw [if_neg nonzero]
  exact insOnce_within transferred

theorem repeatedOuts_within {g : Option SReg} (h : outcome (repeated (outsOnce w g) s) = .next t) :
    Within { parts := [esiPart, ecxPart], ports := true, repeats := true } s t :=
  repeated_within (fun _ => outsOnce_within) outsOnce_keepsCount h

/-! ### Jumps (R251, R252) -/

theorem jump_within {f : JumpForm} (h : outcome (jump f s) = .next t) : Within { jumps := true } s t := by
  obtain rfl := jump_ok.1 ((outcome_next _ _).1 h)
  exact { ends := fun _ => ⟨fun impossible => Bool.noConfusion impossible, rfl⟩ }

theorem jumpIf_within {k : Cond} {f : JumpForm} (h : outcome (jumpIf k f s) = .next t) :
    Within { jumps := true } s t := by
  obtain rfl := jumpIf_ok.1 ((outcome_next _ _).1 h)
  split
  · exact { ends := fun _ => ⟨fun impossible => Bool.noConfusion impossible, rfl⟩ }
  · exact {}

end

/-! ### Every instruction -/

/-- Whatever instruction runs, it changes no more than its rows in the tables allow. -/
theorem exec_within {i : Instr} {s t : State} (h : exec i s = .next t) : Within (footprint i s) s t := by
  cases i with
  | ldsw _ r | lesw _ r | lfsw _ r | lgsw _ r | lssw _ r => exact loadPointer_within (Reg16.part_fits r) h
  | ldsl _ r | lesl _ r | lfsl _ r | lgsl _ r | lssl _ r => exact loadPointer_within (Reg32.part_fits r) h
  | popw f => exact popInto_within (popOperand_fits f) h
  | popl f =>
    cases f with
    | reg r => exact popInto_within (x := .reg (Reg32.part r)) (operandFits_map Reg32.part_fits (.reg r)) h
    | rm m => exact popInto_within (operandFits_map Reg32.part_fits m) h
    | sreg r => exact popSegment_within h
  | pop r => exact popSegment_within h
  | pushw f => exact pushFrom_within h
  | pushl f =>
    cases f with
    | reg _ | rm _ | imm8 _ | imm _ => exact pushFrom_within h
    | sreg _ => exact pushSegment_within h
  | push _ => exact pushSegment_within h
  | inb _ | inw _ | inl _ => exact portIn_within (by decide) h
  | outb _ | outw _ | outl _ => exact portOut_within h
  | insb | insw | insl => exact single_within insOnce_within h
  | rep_insb | rep_insw | rep_insl => exact repeatedIns_within h
  | outsb _ | outsw _ | outsl _ => exact single_within outsOnce_within h
  | rep_outsb _ | rep_outsw _ | rep_outsl _ => exact repeatedOuts_within h
  | lahf => exact loadFlagByte_within h
  | sahf | cmc | clc | stc | cld | std => exact changeFlags_within h rfl rfl
  | cli => exact clearInterrupt_within h
  | sti => exact setInterrupt_within h
  | popfw | popfl => exact popFlags_within h
  | pushfw | pushfl => exact pushFlags_within h
  | addb f | orb f | adcb f | sbbb f | andb f | subb f | xorb f =>
    exact update_within h (aluOperands_fits Reg8.part_fits (by decide) f) (fun _ _ => rfl)
  | addw f | orw f | adcw f | sbbw f | andw f | subw f | xorw f =>
    exact update_within h (aluOperands_fits Reg16.part_fits (by decide) f) (fun _ _ => rfl)
  | addl f | orl f | adcl f | sbbl f | andl f | subl f | xorl f =>
    exact update_within h (aluOperands_fits Reg32.part_fits (by decide) f) (fun _ _ => rfl)
  | cmpb _ | cmpw _ | cmpl _ | testb _ | testw _ | testl _ => exact compare_within h (fun _ _ => rfl)
  | incb m | decb m | notb m | negb m =>
    exact modify_within h (operandFits_map Reg8.part_fits m) rfl (fun _ => rfl)
  | incw f | decw f =>
    exact modify_within h (incOperand_fits Reg16.part_fits f) rfl (fun _ => rfl)
  | incl f | decl f =>
    exact modify_within h (incOperand_fits Reg32.part_fits f) rfl (fun _ => rfl)
  | notw m | negw m =>
    exact modify_within h (operandFits_map Reg16.part_fits m) rfl (fun _ => rfl)
  | notl m | negl m =>
    exact modify_within h (operandFits_map Reg32.part_fits m) rfl (fun _ => rfl)
  | salb f | shlb f | shrb f | sarb f =>
    exact shift_within h (shiftOperands_fits Reg8.part_fits f) (fun _ _ => rfl)
  | salw f | shlw f | shrw f | sarw f =>
    exact shift_within h (shiftOperands_fits Reg16.part_fits f) (fun _ _ => rfl)
  | sall f | shll f | shrl f | sarl f =>
    exact shift_within h (shiftOperands_fits Reg32.part_fits f) (fun _ _ => rfl)
  | shldw f =>
    exact doubleShift_within h (dshiftOperands_fits Reg16.part_fits f) (fun d v k => shldEffect_allowed d v k s)
  | shldl f =>
    exact doubleShift_within h (dshiftOperands_fits Reg32.part_fits f) (fun d v k => shldEffect_allowed d v k s)
  | shrdw f =>
    exact doubleShift_within h (dshiftOperands_fits Reg16.part_fits f) (fun d v k => shrdEffect_allowed d v k s)
  | shrdl f =>
    exact doubleShift_within h (dshiftOperands_fits Reg32.part_fits f) (fun d v k => shrdEffect_allowed d v k s)
  | mulb _ | mulw _ | mull _ | mul _ => exact multiply_within (by decide) h
  | imulb _ => exact signedMultiply_within (by decide) h
  | imulw _ => exact imulForm_within (by decide) Reg16.part_fits h
  | imull _ | imul _ => exact imulForm_within (by decide) Reg32.part_fits h
  | divb _ | divw _ | divl _ | div _ => exact divide_within (by decide) h
  | boundw _ _ | boundl _ _ => exact checkBounds_within h
  | jmp _ => exact jump_within h
  | jo _ | jno _ | jb _ | jc _ | jnae _ | jae _ | jnb _ | jnc _ | je _ | jz _ | jne _ | jnz _ | jbe _ | jna _ | ja _
  | jnbe _ | js _ | jns _ | jp _ | jpe _ | jnp _ | jpo _ | jl _ | jnge _ | jge _ | jnl _ | jle _ | jng _ | jg _
  | jnle _ => exact jumpIf_within h

/-! ### The frames -/

/-- Settles O16: the row of flags of `exec_within`. -/
theorem flagsChangeByClass : Obligations.FlagsChangeByClass := by
  unfold Obligations.FlagsChangeByClass
  exact fun _ _ _ h => (exec_within h).flags

/-- Settles O18: the row of register parts. -/
theorem registerBitsFrame : Obligations.RegisterBitsFrame := by
  unfold Obligations.RegisterBitsFrame
  exact fun _ _ _ h => (exec_within h).bits

/-- Settles O20: the row of segment registers. -/
theorem segmentRegistersFrame : Obligations.SegmentRegistersFrame := by
  unfold Obligations.SegmentRegistersFrame
  exact fun _ _ _ h => (exec_within h).segs

theorem keepsBytesOutside_writeLE {a : Word} {n v : Nat} {s t : State} (h : t.mem = s.mem.writeLE a.toNat v n) :
    keepsBytesOutside a n s t := fun b out => by
  rw [h, Memory.read_writeLE_outside _ _ _ _ _ out]

/-- Settles O19: a change of memory is one store, to the bytes the row names. -/
theorem memoryFrame : Obligations.MemoryFrame := by
  unfold Obligations.MemoryFrame
  intro i s t h
  obtain same | ⟨a, n, v, row, -, stored⟩ := (exec_within h).memory
  · exact ⟨fun _ b => by rw [same], fun _ _ _ b _ => by rw [same]⟩
  · have row : storedBytes i s = some (a, n) := row
    refine ⟨fun none => ?_, fun a' n' some => ?_⟩
    · simp [row] at none
    · obtain ⟨rfl, rfl⟩ : a = a' ∧ n = n' := by simpa [row] using some
      exact keepsBytesOutside_writeLE stored

/-- Settles O13: the row of ports. -/
theorem portHistoryOnlyGrows : Obligations.PortHistoryOnlyGrows := by
  unfold Obligations.PortHistoryOnlyGrows
  exact fun _ _ _ h => ⟨(exec_within h).events, (exec_within h).ports⟩

/-- Settles O21: the rows of jumps and of `rep`. -/
theorem pcAdvancesByLength : Obligations.PcAdvancesByLength := by
  unfold Obligations.PcAdvancesByLength
  intro i s t h noJump last
  rw [((exec_within h).ends last).1 noJump, State.pcNext, BitVec.toNat_add]

/-- Settles O22: every instruction ends an earlier shadow, and the two that cast one do so after that. -/
theorem interruptShadowRule : Obligations.InterruptShadowRule := by
  unfold Obligations.InterruptShadowRule
  exact fun _ _ _ h last => ((exec_within h).ends last).2

end Sys2Proof.Machine
end

section
/-! PROOFS of the statements about the decoder's answers and about every step: what the decoder answers is a
well-formed first spelling (R76 to R85), and what every step keeps. -/

namespace Sys2Proof

/-! ### What a parser answers -/

/-- Every value the parser answers satisfies `P`. -/
def Answers {α : Type} (P : α → Prop) (x : Parsed α) : Prop := ∀ a rest, x = .ok (a, rest) → P a

/-- A well-formed instruction in its first spelling (R74, R85). -/
def Canonical (i : Instr) : Prop := WellFormed i ∧ i.canon = i

section
variable {α β : Type} {P : α → Prop} {Q : β → Prop}

theorem Answers.ok {a : α} (bs : List Byte) (h : P a) : Answers P (.ok (a, bs)) := by
  rintro _ _ ⟨⟩
  exact h

theorem Answers.error (e : DecodeError) : Answers P (.error e) := by rintro _ _ ⟨⟩

theorem Answers.ite {c : Prop} [Decidable c] {x y : Parsed α} (hx : Answers P x) (hy : Answers P y) :
    Answers P (if c then x else y) := by
  split
  · exact hx
  · exact hy

theorem Answers.parseThen {x : Parsed α} {f : α → List Byte → Parsed β} (hx : Answers P x)
    (hf : ∀ a bs, P a → Answers Q (f a bs)) : Answers Q (parseThen x f) := by
  rcases x with e | ⟨a, bs⟩
  · exact .error e
  · exact hf a bs (hx a bs rfl)

/-- Nothing is asked of the first value. -/
theorem Answers.after {x : Parsed α} {f : α → List Byte → Parsed β} (hf : ∀ a bs, Answers Q (f a bs)) :
    Answers Q (Sys2Proof.parseThen x f) :=
  Answers.parseThen (P := fun _ => True) (fun _ _ _ => trivial) fun a bs _ => hf a bs

theorem Answers.build {x : Parsed α} {mk : α → β} (hx : Answers P x) (h : ∀ a, P a → Q (mk a)) :
    Answers Q (build mk x) :=
  hx.parseThen fun a bs ha => .ok bs (h a ha)

theorem Answers.noSize {p : Prefixes} {x : Parsed α} (h : Answers P x) : Answers P (noSize p x) := .ite (.error _) h

theorem Answers.noSeg {p : Prefixes} {x : Parsed α} (h : Answers P x) : Answers P (noSeg p x) := .ite (.error _) h

theorem Answers.bySize {p : Prefixes} {w l : Parsed α} (hw : Answers P w) (hl : Answers P l) :
    Answers P (bySize p w l) := .ite hw hl

end

/-! ### Memory operands (R76, R77) -/

/-- `100` in the `index` field means no index, and no other number is that of `%esp`. -/
theorem ofCode_ne_esp {c : BitVec 3} (h : c ≠ 4#3) : Reg32.ofCode c ≠ .esp := by
  revert c
  decide

theorem wf_of_no_index (seg : Option SReg) (base : Option Reg32) (d : Word) :
    MemOp.wf { seg := seg, base := base, index := none, disp := d } = true := rfl

theorem wf_of_sib_index (seg : Option SReg) (base : Option Reg32) (c : BitVec 3) (k : Scale) (d : Word) :
    MemOp.wf { seg := seg, base := base, disp := d
               index := if c = 4#3 then none else some (Reg32.ofCode c, k) } = true := by
  split
  · rfl
  next other =>
    have := ofCode_ne_esp other
    cases h : Reg32.ofCode c <;> simp_all [MemOp.wf]

theorem takeSib_answers (seg : Option SReg) (mod : BitVec 2) (bs : List Byte) :
    Answers (fun m => m.wf = true) (takeSib seg mod bs) := by
  cases bs with
  | nil => exact .error _
  | cons b bs =>
    exact .ite (.after fun _ bs => .ok bs (wf_of_sib_index ..)) (.after fun _ bs => .ok bs (wf_of_sib_index ..))

theorem takeModRM_answers (seg : Option SReg) (bs : List Byte) :
    Answers (fun x => x.2.wf = true) (takeModRM seg bs) := by
  cases bs with
  | nil => exact .error _
  | cons b bs =>
    refine .ite (.ite (.error _) (.ok bs rfl)) ?memory
    refine Answers.parseThen (P := fun m => m.wf = true) ?operand fun _ bs h => .ok bs h
    exact .ite (takeSib_answers seg _ bs)
      (.ite (.after fun _ bs => .ok bs (wf_of_no_index ..)) (.after fun _ bs => .ok bs (wf_of_no_index ..)))

theorem takeModMem_answers (seg : Option SReg) (bs : List Byte) :
    Answers (fun x => x.2.wf = true) (takeModMem seg bs) := by
  refine (takeModRM_answers seg bs).parseThen fun x bs h => ?_
  rcases x with ⟨g, _ | m⟩
  · exact .error _
  · exact .ok bs h

/-! ### Operand forms -/

section
variable {ρ : Type} {n : Nat} (reg : BitVec 3 → ρ) (p : Prefixes) (bs : List Byte)

/-- An operand form read after ModRM, whatever else is read: what the registers are renamed to does not matter. -/
theorem takeModRM_then {β : Type} {Q : β → Prop} {f : BitVec 3 × RM (BitVec 3) → List Byte → Parsed β}
    (h : ∀ g (m : RM (BitVec 3)) bs, (m.map reg).wf = true → Answers Q (f (g, m) bs)) :
    Answers Q (parseThen (takeModRM p.seg bs) f) :=
  (takeModRM_answers p.seg bs).parseThen fun x bs wf => h x.1 x.2 bs ((RM.wf_map reg x.2).trans wf)

theorem takeAlu_answers (shape : Nat) :
    Answers (fun f => AluForm.wfByte (n := n) f = true) (takeAlu reg shape p bs) := by
  match shape with
  | 0 | 1 => exact takeModRM_then reg p bs fun _ _ bs wf => .ok bs wf
  | _ + 2 => exact Answers.noSeg (.after fun _ bs => .ok bs rfl)

theorem takeAluImm_answers {mk : BitVec 3 → AluForm ρ n → Instr} (h : ∀ k f, f.wfByte = true → Canonical (mk k f)) :
    Answers Canonical (takeAluImm reg mk p bs) :=
  takeModRM_then reg p bs fun _ _ _ wf => .after fun _ bs => .ok bs (h _ _ wf)

theorem takeAluImm8_answers {mk : BitVec 3 → AluForm ρ n → Instr} (h : ∀ k f, f.wf = true → Canonical (mk k f)) :
    Answers Canonical (takeAluImm8 reg mk p bs) :=
  takeModRM_then reg p bs fun _ _ _ wf => .after fun _ bs => .ok bs (h _ _ wf)

theorem takeTest_answers {mk : TestForm ρ n → Instr}
    (h : ∀ f, f.wf = true → f.canon = f → Canonical (mk f)) : Answers Canonical (takeTest reg mk p bs) :=
  takeModRM_then reg p bs fun _ _ bs wf => .ok bs (h _ wf rfl)

theorem takeTestAcc_answers {mk : TestForm ρ n → Instr}
    (h : ∀ f, f.wf = true → f.canon = f → Canonical (mk f)) : Answers Canonical (takeTestAcc mk p bs) :=
  .noSeg (.after fun _ bs => .ok bs (h _ rfl rfl))

theorem withRest_answers {x : Except DecodeError Instr} (h : ∀ i, x = .ok i → Canonical i) :
    Answers Canonical (withRest bs x) := by
  rcases x with e | i
  · exact .error e
  · exact .ok bs (h i rfl)

theorem takeShift_answers {mk : BitVec 3 → ShiftForm ρ → Except DecodeError Instr} (count : Nat)
    (h : ∀ k f i, f.wf = true → mk k f = .ok i → Canonical i) : Answers Canonical (takeShift reg mk count p bs) := by
  refine takeModRM_then reg p bs fun g m bs wf => ?_
  match count with
  | 0 => exact .after fun c bs => withRest_answers bs fun i => h g (.imm c (m.map reg)) i wf
  | 1 => exact withRest_answers bs fun i => h g (.one (m.map reg)) i wf
  | _ + 2 => exact withRest_answers bs fun i => h g (.cl (m.map reg)) i wf

theorem takeDShift_answers {mk : DShiftForm ρ → Instr} (cl : Bool) (h : ∀ f, f.wf = true → Canonical (mk f)) :
    Answers Canonical (takeDShift reg mk cl p bs) :=
  takeModRM_then reg p bs fun _ _ bs wf =>
    .ite (.ok bs (h _ wf)) (.after fun _ bs => .ok bs (h _ wf))

theorem takeGroup3_answers {test : TestForm ρ n → Instr} {not neg mul imul div : RM ρ → Instr}
    (hTest : ∀ f, f.wf = true → f.canon = f → Canonical (test f)) (hNot : ∀ m, m.wf = true → Canonical (not m))
    (hNeg : ∀ m, m.wf = true → Canonical (neg m)) (hMul : ∀ m, m.wf = true → Canonical (mul m))
    (hImul : ∀ m, m.wf = true → Canonical (imul m)) (hDiv : ∀ m, m.wf = true → Canonical (div m)) :
    Answers Canonical (takeGroup3 reg test not neg mul imul div p bs) := by
  refine takeModRM_then reg p bs fun g m bs wf => ?_
  dsimp only
  split
  · exact .after fun _ bs => .ok bs (hTest _ wf rfl)
  · exact .ok bs (hNot _ wf)
  · exact .ok bs (hNeg _ wf)
  · exact .ok bs (hMul _ wf)
  · exact .ok bs (hImul _ wf)
  · exact .ok bs (hDiv _ wf)
  · exact .error _

theorem takeGroup5_answers {inc dec push : RM ρ → Instr} (hInc : ∀ m, m.wf = true → Canonical (inc m))
    (hDec : ∀ m, m.wf = true → Canonical (dec m)) (hPush : ∀ m, m.wf = true → Canonical (push m)) :
    Answers Canonical (takeGroup5 reg inc dec push p bs) := by
  refine takeModRM_then reg p bs fun g m bs wf => ?_
  dsimp only
  split
  · exact .ok bs (hInc _ wf)
  · exact .ok bs (hDec _ wf)
  · exact .ok bs (hPush _ wf)
  · exact .error _

theorem takePopRm_answers {pop : RM ρ → Instr} (h : ∀ m, m.wf = true → Canonical (pop m)) :
    Answers Canonical (takePopRm reg pop p bs) :=
  takeModRM_then reg p bs fun _ _ bs wf => .ite (.ok bs (h _ wf)) (.error _)

theorem takeImul2_answers {mk : ImulForm ρ n → Instr} (h : ∀ f, f.wf = true → Canonical (mk f)) :
    Answers Canonical (takeImul2 reg mk p bs) :=
  takeModRM_then reg p bs fun _ _ bs wf => .ok bs (h _ wf)

theorem takeImul3_answers {mk : ImulForm ρ n → Instr} (h : ∀ f, f.wf = true → Canonical (mk f)) :
    Answers Canonical (takeImul3 reg mk p bs) :=
  takeModRM_then reg p bs fun _ _ _ wf => .after fun _ bs => .ok bs (h _ wf)

theorem takeImul3Short_answers {mk : ImulForm ρ n → Instr} (h : ∀ f, f.wf = true → Canonical (mk f)) :
    Answers Canonical (takeImul3Short reg mk p bs) :=
  takeModRM_then reg p bs fun _ _ _ wf => .after fun _ bs => .ok bs (h _ wf)

theorem takeMemReg_answers {mk : MemOp → ρ → Instr} (h : ∀ m r, m.wf = true → Canonical (mk m r)) :
    Answers Canonical (takeMemReg reg mk p bs) :=
  (takeModMem_answers p.seg bs).parseThen fun _ bs wf => .ok bs (h _ _ wf)

theorem justOpcode_answers {i : Instr} (h : Canonical i) : Answers Canonical (justOpcode i p bs) := .noSeg (.ok bs h)

theorem takePort_answers {mk : PortForm → Instr} (h : ∀ f, Canonical (mk f)) : Answers Canonical (takePort mk p bs) :=
  .noSeg (.after fun _ bs => .ok bs (h _))

end

/-! ### Rows that a number in the opcode selects (R82) -/

theorem AluForm.wf_of_wfByte {ρ : Type} {n : Nat} {f : AluForm ρ n} (h : f.wfByte = true) : f.wf = true := by
  cases f with
  | imm8Rm _ _ => exact nomatch h
  | regRm _ _ | rmReg _ _ | immAcc _ | immRm _ _ => exact h

theorem aluB_canonical (k : BitVec 3) (f : AluForm Reg8 8) (h : f.wfByte = true) : Canonical (aluB k f) := by
  unfold aluB
  split <;> exact ⟨h, rfl⟩

theorem aluW_canonical (k : BitVec 3) (f : AluForm Reg16 16) (h : f.wf = true) : Canonical (aluW k f) := by
  unfold aluW
  split <;> exact ⟨h, rfl⟩

theorem aluL_canonical (k : BitVec 3) (f : AluForm Reg32 32) (h : f.wf = true) : Canonical (aluL k f) := by
  unfold aluL
  split <;> exact ⟨h, rfl⟩

theorem shiftB_canonical (k : BitVec 3) (f : ShiftForm Reg8) (i : Instr) (h : f.wf = true) (e : shiftB k f = .ok i) :
    Canonical i := by
  unfold shiftB at e
  split at e <;> cases e <;> exact ⟨h, rfl⟩

theorem shiftW_canonical (k : BitVec 3) (f : ShiftForm Reg16) (i : Instr) (h : f.wf = true) (e : shiftW k f = .ok i) :
    Canonical i := by
  unfold shiftW at e
  split at e <;> cases e <;> exact ⟨h, rfl⟩

theorem shiftL_canonical (k : BitVec 3) (f : ShiftForm Reg32) (i : Instr) (h : f.wf = true) (e : shiftL k f = .ok i) :
    Canonical i := by
  unfold shiftL at e
  split at e <;> cases e <;> exact ⟨h, rfl⟩

theorem jumpIf_canonical (t : BitVec 4) (f : JumpForm) : Canonical (jumpIf t f) := by
  unfold jumpIf
  split <;> exact ⟨rfl, rfl⟩

theorem test_canonical {ρ : Type} {n : Nat} {mk : TestForm ρ n → Instr} (hwf : ∀ f, (mk f).wf = f.wf)
    (hcanon : ∀ f, (mk f).canon = mk f.canon) (f : TestForm ρ n) (h : f.wf = true) (first : f.canon = f) :
    Canonical (mk f) :=
  ⟨(hwf f).trans h, (hcanon f).trans (congrArg mk first)⟩

/-! ### The opcode map -/

section
variable (p : Prefixes) (b : Byte) (bs : List Byte)

theorem decodeAluBlock_answers : Answers Canonical (decodeAluBlock p b bs) := by
  refine .ite (.ite ?byte (.bySize ?word ?long)) (.noSize ?segments)
  case byte => exact Answers.build (takeAlu_answers _ _ _ _) (aluB_canonical _)
  case word => exact Answers.build (takeAlu_answers _ _ _ _) fun f h => aluW_canonical _ f (AluForm.wf_of_wfByte h)
  case long => exact Answers.build (takeAlu_answers _ _ _ _) fun f h => aluL_canonical _ f (AluForm.wf_of_wfByte h)
  case segments =>
    exact .ite (justOpcode_answers _ _ ⟨rfl, rfl⟩) <| .ite (justOpcode_answers _ _ ⟨rfl, rfl⟩) <|
      .ite (justOpcode_answers _ _ ⟨rfl, rfl⟩) <| .ite (justOpcode_answers _ _ ⟨rfl, rfl⟩) <|
      .ite (justOpcode_answers _ _ ⟨rfl, rfl⟩) <| .ite (justOpcode_answers _ _ ⟨rfl, rfl⟩) <|
      .ite (justOpcode_answers _ _ ⟨rfl, rfl⟩) (.error _)

theorem decodeRegBlock_answers : Answers Canonical (decodeRegBlock p b bs) := by
  refine .ite (.bySize ?incw ?incl) <| .ite (.bySize ?decw ?decl) <| .ite (.bySize ?pushw ?pushl) <|
    .bySize ?popw ?popl
  case incw | incl | decw | decl | pushw | pushl | popw | popl => exact justOpcode_answers _ _ ⟨rfl, rfl⟩

theorem decodeMiddle_answers : Answers Canonical (decodeMiddle p b bs) := by
  refine .ite (.bySize ?boundw ?boundl) <| .ite (.noSeg (.bySize ?pushw ?pushl)) <| .ite (.bySize ?imul3w ?imul3l) <|
    .ite (.noSeg (.bySize ?pushw8 ?pushl8)) <| .ite (.bySize ?imul3Shortw ?imul3Shortl) <|
    .ite (justOpcode_answers _ _ ?insb) <|
    .ite (.bySize (justOpcode_answers _ _ ?insw) (justOpcode_answers _ _ ?insl)) <|
    .ite (.ok bs ?outsb) <| .ite (.bySize (.ok bs ?outsw) (.ok bs ?outsl)) <| .ite (.noSize (.noSeg ?jcc)) <|
    .ite ?aluImmB <| .ite (.bySize ?aluImmW ?aluImmL) <| .ite (.bySize ?aluImm8W ?aluImm8L) <|
    .ite ?testb <| .ite (.bySize ?testw ?testl) <| .ite (.bySize ?popw ?popl) (.error _)
  case boundw | boundl => exact takeMemReg_answers _ _ _ fun _ _ h => ⟨h, rfl⟩
  case pushw | pushl | pushw8 | pushl8 => exact .after fun _ bs => .ok bs ⟨rfl, rfl⟩
  case imul3w | imul3l => exact takeImul3_answers _ _ _ fun _ h => ⟨h, rfl⟩
  case imul3Shortw | imul3Shortl => exact takeImul3Short_answers _ _ _ fun _ h => ⟨h, rfl⟩
  case insb | insw | insl | outsb | outsw | outsl => split <;> exact ⟨rfl, rfl⟩
  case jcc => exact .after fun _ bs => .ok bs (jumpIf_canonical _ _)
  case aluImmB => exact takeAluImm_answers _ _ _ aluB_canonical
  case aluImmW => exact takeAluImm_answers _ _ _ fun k f h => aluW_canonical k f (AluForm.wf_of_wfByte h)
  case aluImmL => exact takeAluImm_answers _ _ _ fun k f h => aluL_canonical k f (AluForm.wf_of_wfByte h)
  case aluImm8W => exact takeAluImm8_answers _ _ _ aluW_canonical
  case aluImm8L => exact takeAluImm8_answers _ _ _ aluL_canonical
  case testb | testw | testl => exact takeTest_answers _ _ _ (test_canonical (fun _ => rfl) fun _ => rfl)
  case popw | popl => exact takePopRm_answers _ _ _ fun _ h => ⟨h, rfl⟩

theorem decodeUpper_answers : Answers Canonical (decodeUpper p b bs) := by
  refine .ite (.bySize ?pushfw ?pushfl) <| .ite (.bySize ?popfw ?popfl) <| .ite (.noSize ?sahf) <|
    .ite (.noSize ?lahf) <| .ite ?testb <| .ite (.bySize ?testw ?testl) <|
    .ite ?immB <| .ite (.bySize ?immW ?immL) <| .ite (.bySize ?lesw ?lesl) <| .ite (.bySize ?ldsw ?ldsl) <|
    .ite ?oneB <| .ite (.bySize ?oneW ?oneL) <| .ite ?clB <| .ite (.bySize ?clW ?clL) (.error _)
  case pushfw | pushfl | popfw | popfl | sahf | lahf => exact justOpcode_answers _ _ ⟨rfl, rfl⟩
  case testb | testw | testl => exact takeTestAcc_answers _ _ (test_canonical (fun _ => rfl) fun _ => rfl)
  case immB | oneB | clB => exact takeShift_answers _ _ _ _ shiftB_canonical
  case immW | oneW | clW => exact takeShift_answers _ _ _ _ shiftW_canonical
  case immL | oneL | clL => exact takeShift_answers _ _ _ _ shiftL_canonical
  case lesw | lesl | ldsw | ldsl => exact takeMemReg_answers _ _ _ fun _ _ h => ⟨h, rfl⟩

theorem decodeTop_answers : Answers Canonical (decodeTop p b bs) := by
  refine .ite ?inb <| .ite (.bySize ?inw ?inl) <| .ite ?outb <| .ite (.bySize ?outw ?outl) <|
    .ite (.noSize (.noSeg ?jmp)) <| .ite (.noSize (.noSeg ?jmp8)) <|
    .ite ?inbDx <| .ite (.bySize ?inwDx ?inlDx) <| .ite ?outbDx <| .ite (.bySize ?outwDx ?outlDx) <|
    .ite (.noSize ?cmc) <| .ite ?group3B <| .ite (.bySize ?group3W ?group3L) <| .ite (.noSize ?clc) <|
    .ite (.noSize ?stc) <| .ite (.noSize ?cli) <| .ite (.noSize ?sti) <| .ite (.noSize ?cld) <| .ite (.noSize ?std) <|
    .ite ?incDecB <| .ite (.bySize ?group5W ?group5L) (.error _)
  case inb | inw | inl | outb | outw | outl => exact takePort_answers _ _ fun _ => ⟨rfl, rfl⟩
  case jmp | jmp8 => exact .after fun _ bs => .ok bs ⟨rfl, rfl⟩
  case inbDx | inwDx | inlDx | outbDx | outwDx | outlDx => exact justOpcode_answers _ _ ⟨rfl, rfl⟩
  case cmc | clc | stc | cli | sti | cld | std => exact justOpcode_answers _ _ ⟨rfl, rfl⟩
  case group3B | group3W | group3L =>
    exact takeGroup3_answers _ _ _ (test_canonical (fun _ => rfl) fun _ => rfl) (fun _ h => ⟨h, rfl⟩)
      (fun _ h => ⟨h, rfl⟩) (fun _ h => ⟨h, rfl⟩) (fun _ h => ⟨h, rfl⟩) (fun _ h => ⟨h, rfl⟩)
  case incDecB =>
    refine takeModRM_then Reg8.ofCode p bs fun g m bs wf => ?_
    dsimp only
    split
    · exact .ok bs ⟨wf, rfl⟩
    · exact .ok bs ⟨wf, rfl⟩
    · exact .error _
  case group5W | group5L =>
    exact takeGroup5_answers _ _ _ (fun _ h => ⟨h, rfl⟩) (fun _ h => ⟨h, rfl⟩) (fun _ h => ⟨h, rfl⟩)

theorem decodeTwoByte_answers : Answers Canonical (decodeTwoByte p b bs) := by
  refine .ite (.noSize (.noSeg ?jcc)) <| .ite (.noSize ?pushFs) <| .ite (.noSize ?popFs) <| .ite (.noSize ?pushGs) <|
    .ite (.noSize ?popGs) <| .ite (.bySize ?shldw ?shldl) <| .ite (.bySize ?shldwCl ?shldlCl) <|
    .ite (.bySize ?shrdw ?shrdl) <| .ite (.bySize ?shrdwCl ?shrdlCl) <| .ite (.bySize ?imulw ?imull) <|
    .ite (.bySize ?lssw ?lssl) <| .ite (.bySize ?lfsw ?lfsl) <| .ite (.bySize ?lgsw ?lgsl) (.error _)
  case jcc => exact .after fun _ bs => .ok bs (jumpIf_canonical _ _)
  case pushFs | popFs | pushGs | popGs => exact justOpcode_answers _ _ ⟨rfl, rfl⟩
  case shldw | shldl | shldwCl | shldlCl | shrdw | shrdl | shrdwCl | shrdlCl =>
    exact takeDShift_answers _ _ _ _ fun _ h => ⟨h, rfl⟩
  case imulw | imull => exact takeImul2_answers _ _ _ fun _ h => ⟨h, rfl⟩
  case lssw | lssl | lfsw | lfsl | lgsw | lgsl => exact takeMemReg_answers _ _ _ fun _ _ h => ⟨h, rfl⟩

theorem decodeOpcode_answers : Answers Canonical (decodeOpcode p b bs) := by
  refine .ite (.error _) <| .ite ?twoByte <| .ite (decodeAluBlock_answers p b bs) <|
    .ite (decodeRegBlock_answers p b bs) <| .ite (decodeMiddle_answers p b bs) <|
    .ite (decodeUpper_answers p b bs) (decodeTop_answers p b bs)
  cases bs with
  | nil => exact .error _
  | cons b2 bs => exact decodeTwoByte_answers p b2 bs

end

theorem decode_canonical {bs : List Byte} {i : Instr} {n : Nat} (h : decode bs = .ok (i, n)) :
    Canonical i ∧ n ≤ bs.length := by
  have answers : Answers Canonical (parseThen (takePrefixes { op16 := false, rep := false, seg := none } bs)
      fun (p, b) rest => decodeOpcode p b rest) := .after fun x rest => decodeOpcode_answers x.1 x.2 rest
  unfold decode at h
  split at h
  next j rest parsed =>
    obtain ⟨rfl, rfl⟩ : j = i ∧ bs.length - rest.length = n := by simpa using h
    exact ⟨answers _ _ parsed, Nat.sub_le ..⟩
  next => exact nomatch h

/-- Settles O2: every opcode's parser answers a well-formed first spelling, and no parser adds bytes. -/
theorem decodedInstructionIsWellFormed : Obligations.DecodedInstructionIsWellFormed := by
  unfold Obligations.DecodedInstructionIsWellFormed
  intro bs i n h
  obtain ⟨⟨wf, first⟩, short⟩ := decode_canonical h
  exact ⟨wf, first, short⟩

end Sys2Proof
end

section
/-! PROOFS of the statements about every step: the launch premises, the system state, the program text and the guarded
flags are kept (R64, R262, R275, R292). -/

namespace Sys2Proof.Machine

/-! ### What a step is -/

/-- A step leaves an ended run as it is, or runs a well-formed instruction within its footprint. -/
theorem step_cases {s t : State} (h : step s = .next t) :
    t = s ∨ ∃ i n, WellFormed i ∧ Within (footprint i (s.setLen n)) (s.setLen n) t := by
  unfold step at h
  split at h
  · exact .inl (by simpa [eq_comm] using h)
  split at h
  next i n fetched =>
    obtain ⟨⟨wf, -⟩, -⟩ := decode_canonical (fetch_ok.1 fetched).1
    exact .inr ⟨i, _, wf, exec_within h⟩
  next => simp at h

/-! ### What a footprint keeps -/

theorem Within.quiet {f : Footprint} {s t : State} (h : Within f s t) (quiet : s.Quiet) : t.Quiet := by
  obtain ⟨-, system, -⟩ := h.system
  obtain ⟨tf, rf, vm, ac⟩ := FlagClass.allows_keepsTrapFlags h.flags
  refine ⟨?mem, tf.trans quiet.tf, ac.trans quiet.ac, vm.trans quiet.vm, rf.trans quiet.rf, ?db7⟩
  case mem =>
    obtain same | ⟨a, n, v, -, ⟨below, -⟩, stored⟩ := h.memory
    · rw [same]
      exact quiet.mem
    · rw [stored]
      exact Memory.wf_writeLE _ _ _ _ quiet.mem below
  case db7 =>
    rw [State.noBreakpoint, system]
    exact quiet.db7

/-- A store that meets the text is refused, so one that completes is outside it (R64). -/
theorem outside_of_not_meets {r : Range} {a n b : Nat} (apart : r.meets a n = false) (inText : r.holds b = true) :
    b < a ∨ a + n ≤ b := by
  by_contra inside
  have index : b - a < n := by omega
  have same : a + (b - a) = b := by omega
  simp only [Range.meets, List.any_eq_false, List.mem_range] at apart
  exact apart (b - a) index (by rw [same, inText])

theorem Within.textKept {f : Footprint} {s t : State} (h : Within f s t) {b : Nat}
    (inText : s.plat.text.holds b = true) : t.mem.read b = s.mem.read b := by
  obtain same | ⟨a, n, v, -, ⟨-, -, apart⟩, stored⟩ := h.memory
  · rw [same]
  · rw [stored, Memory.read_writeLE_outside _ _ _ _ _ (outside_of_not_meets apart inText)]

theorem cs_ne_of_poppable {r : SReg} (h : r.poppable = true) : .cs ≠ r := by
  rintro rfl
  exact nomatch h

/-- `pop %cs` would be the one instruction that loads `%cs`, and it is not well-formed (R107). -/
theorem cs_not_written {i : Instr} (wf : WellFormed i) : .cs ∉ writtenSegments i := by
  cases i with
  | pop r => exact mt List.mem_singleton.1 (cs_ne_of_poppable wf)
  | popl f =>
    cases f with
    | sreg r => exact mt List.mem_singleton.1 (cs_ne_of_poppable wf)
    | reg _ | rm _ => exact List.not_mem_nil
  | _ => simp [writtenSegments]

/-! ### Every step -/

/-- Settles O8: the premises are flags of no class, system state, and the form of memory, which a store keeps. -/
theorem launchPremisesKept : Obligations.LaunchPremisesKept := by
  unfold Obligations.LaunchPremisesKept
  intro s t h
  obtain rfl | ⟨i, n, -, within⟩ := step_cases h
  · exact ⟨id, id⟩
  have keepsQuiet : s.Quiet → t.Quiet := fun q => within.quiet ⟨q.mem, q.tf, q.ac, q.vm, q.rf, q.db7⟩
  refine ⟨keepsQuiet, fun launched => ⟨keepsQuiet launched.quiet, ?_⟩⟩
  obtain ⟨-, system, -⟩ := within.system
  rw [State.protectedMode, system]
  exact launched.pe

/-- Settles O11: no row of a well-formed instruction names `%cs`, and no instruction changes the rest. -/
theorem systemStateNeverChanges : Obligations.SystemStateNeverChanges := by
  unfold Obligations.SystemStateNeverChanges
  intro s t h
  obtain rfl | ⟨i, n, wf, within⟩ := step_cases h
  · exact ⟨⟨rfl, rfl, rfl⟩, rfl⟩
  · exact ⟨within.system, within.segs .cs (cs_not_written wf)⟩

/-- Settles O12: a store that completes lies outside the text. -/
theorem programTextNeverChanges : Obligations.ProgramTextNeverChanges := by
  unfold Obligations.ProgramTextNeverChanges
  intro s t h b inText
  obtain rfl | ⟨i, n, -, within⟩ := step_cases h
  · rfl
  · exact within.textKept inText

/-- Settles O17: the guarded flags of `Within`. -/
theorem privilegedFlagsAreGuarded : Obligations.PrivilegedFlagsAreGuarded := by
  unfold Obligations.PrivilegedFlagsAreGuarded
  intro s t h
  obtain rfl | ⟨i, n, -, within⟩ := step_cases h
  · exact ⟨fun _ => rfl, fun _ => rfl⟩
  · exact within.guarded

end Sys2Proof.Machine
end

section
/-! PROOFS of the statements about the encoder: what it writes the decoder reads back, alone (R75 to R85) and in the
program text (R292). -/

namespace Sys2Proof

theorem parseThen_assoc {α β γ : Type} (x : Parsed α) (f : α → List Byte → Parsed β) (g : β → List Byte → Parsed γ) :
    parseThen (parseThen x f) g = parseThen x fun a bs => parseThen (f a bs) g := by
  cases x <;> rfl

/-! ### Rows with a ModRM byte -/

/-- ModRM is read back whatever class its registers are of (R76). -/
theorem takeModRM_map {ρ : Type} (code : ρ → BitVec 3) (g : BitVec 3) {m : RM ρ} (rest : List Byte)
    (wf : m.wf = true) : takeModRM m.segOf (modRMBytes g (m.map code) ++ rest) = .ok ((g, m.map code), rest) := by
  simpa using takeModRM_modRMBytes g (m.map code) rest ((RM.wf_map code m).trans wf)

section
variable {ρ α : Type} {code : ρ → BitVec 3} {sz : OpSize} {b : Byte} {ops imm rest : List Byte} {g : BitVec 3}
  {m : RM ρ} {n : Nat} {v : BitVec n} {i : Instr}

/-- A row whose opcode reads ModRM and goes on with `row`. -/
theorem decode_modRM {row : BitVec 3 × RM (BitVec 3) → List Byte → Parsed Instr} (wf : m.wf = true)
    (noPrefix : isPrefixByte b = false)
    (opcode : ∀ bs, decodeOpcode { op16 := sz == .word, rep := false, seg := m.segOf } b (ops ++ bs) =
      parseThen (takeModRM m.segOf bs) row)
    (read : row (g, m.map code) (imm ++ rest) = .ok (i, rest)) :
    decode (encRM sz (b :: ops) g (m.map code) imm ++ rest) =
      .ok (i, (encRM sz (b :: ops) g (m.map code) imm).length) := by
  refine decode_encRM noPrefix ?_
  rw [RM.segOf_map, opcode, takeModRM_map code g _ wf, parseThen_ok, read]

/-- The same where the opcode parses the operand's `form` first. -/
theorem decode_modRM_form {form : BitVec 3 × RM (BitVec 3) → List Byte → Parsed α} {row : α → List Byte → Parsed Instr}
    (wf : m.wf = true) (noPrefix : isPrefixByte b = false)
    (opcode : ∀ bs, decodeOpcode { op16 := sz == .word, rep := false, seg := m.segOf } b (ops ++ bs) =
      parseThen (parseThen (takeModRM m.segOf bs) form) row)
    (read : parseThen (form (g, m.map code) (imm ++ rest)) row = .ok (i, rest)) :
    decode (encRM sz (b :: ops) g (m.map code) imm ++ rest) =
      .ok (i, (encRM sz (b :: ops) g (m.map code) imm).length) :=
  decode_modRM wf noPrefix (fun bs => (opcode bs).trans (parseThen_assoc ..)) read

/-! ### Rows without one -/

/-- A row whose opcode reads an immediate or a displacement and goes on with `row`. -/
theorem decode_imm {row : BitVec n → List Byte → Parsed Instr} (field : takeImm n (imm ++ rest) = .ok (v, rest))
    (noPrefix : isPrefixByte b = false)
    (opcode : ∀ bs, decodeOpcode { op16 := sz == .word, rep := false, seg := none } b (ops ++ bs) =
      parseThen (takeImm n bs) row)
    (read : row v rest = .ok (i, rest)) :
    decode (encPlain sz (b :: ops) imm ++ rest) = .ok (i, (encPlain sz (b :: ops) imm).length) :=
  decode_encPlain noPrefix (by rw [opcode, field, parseThen_ok, read])

theorem decode_imm_form {form : BitVec n → List Byte → Parsed α} {row : α → List Byte → Parsed Instr}
    (field : takeImm n (imm ++ rest) = .ok (v, rest)) (noPrefix : isPrefixByte b = false)
    (opcode : ∀ bs, decodeOpcode { op16 := sz == .word, rep := false, seg := none } b (ops ++ bs) =
      parseThen (parseThen (takeImm n bs) form) row)
    (read : parseThen (form v rest) row = .ok (i, rest)) :
    decode (encPlain sz (b :: ops) imm ++ rest) = .ok (i, (encPlain sz (b :: ops) imm).length) :=
  decode_imm field noPrefix (fun bs => (opcode bs).trans (parseThen_assoc ..)) read

/-- A row that is its opcode, with no size byte before it. -/
theorem decode_opcode (noPrefix : isPrefixByte b = false)
    (opcode : decodeOpcode { op16 := false, rep := false, seg := none } b (ops ++ rest) = .ok (i, rest)) :
    decode (b :: ops ++ rest) = .ok (i, (b :: ops).length) :=
  by simpa [encPlain, OpSize.prefixBytes] using decode_encPlain (sz := .long) (imm := []) noPrefix opcode

end

/-! ### String instructions (R79) -/

theorem takePrefixes_segBytes (seg : Option SReg) (bs : List Byte) :
    takePrefixes { op16 := false, rep := false, seg := none } (segBytes seg ++ bs) =
      takePrefixes { op16 := false, rep := false, seg := seg } bs := by
  cases seg with
  | none => rfl
  | some r => exact takePrefixes_seg _ r bs rfl

theorem takePrefixes_size (seg : Option SReg) (rep : Bool) (sz : OpSize) {b : Byte} (rest : List Byte)
    (noPrefix : isPrefixByte b = false) :
    takePrefixes { op16 := false, rep := rep, seg := seg } (sz.prefixBytes ++ b :: rest) =
      .ok (({ op16 := sz == .word, rep := rep, seg := seg }, b), rest) := by
  cases sz with
  | byte | long | word => exact takePrefixes_opcode _ b rest noPrefix

theorem decode_string {seg : Option SReg} {sz : OpSize} {b : Byte} {rest : List Byte} {i : Instr}
    (noPrefix : isPrefixByte b = false)
    (opcode : decodeOpcode { op16 := sz == .word, rep := false, seg := seg } b rest = .ok (i, rest)) :
    decode (segBytes seg ++ encPlain sz [b] [] ++ rest) = .ok (i, (segBytes seg ++ encPlain sz [b] []).length) := by
  refine decode_of_parts (p := { op16 := sz == .word, rep := false, seg := seg }) ?_ opcode List.length_append
  simpa [encPlain, takePrefixes_segBytes] using takePrefixes_size seg false sz rest noPrefix

theorem decode_repString {seg : Option SReg} {sz : OpSize} {b : Byte} {rest : List Byte} {i : Instr}
    (noPrefix : isPrefixByte b = false)
    (opcode : decodeOpcode { op16 := sz == .word, rep := true, seg := seg } b rest = .ok (i, rest)) :
    decode (segBytes seg ++ 0xF3#8 :: encPlain sz [b] [] ++ rest) =
      .ok (i, (segBytes seg ++ 0xF3#8 :: encPlain sz [b] []).length) := by
  refine decode_of_parts (p := { op16 := sz == .word, rep := true, seg := seg }) ?_ opcode List.length_append
  have repFirst : ∀ bs, takePrefixes { op16 := false, rep := false, seg := seg } (0xF3#8 :: bs) =
      takePrefixes { op16 := false, rep := true, seg := seg } bs := fun _ => rfl
  simpa [encPlain, takePrefixes_segBytes, repFirst] using takePrefixes_size seg true sz rest noPrefix

/-! ### Conditional jumps (R250, R252) -/

theorem jcc8_noPrefix (t : BitVec 4) : isPrefixByte (7#4 ++ t) = false := by
  revert t
  decide

/-- Opcodes `70` to `7F` lie between those of the string instructions and those of the immediate operations. -/
theorem decodeOpcode_jcc8 (t : BitVec 4) (bs : List Byte) :
    decodeOpcode { op16 := false, rep := false, seg := none } (7#4 ++ t) bs =
      build (fun d => jumpIf t (.disp8 d)) (takeImm 8 bs) := by
  have block : ¬ (7#4 ++ t : Byte).toNat < 0x60 ∧ (7#4 ++ t : Byte).toNat < 0x90 ∧
      (7#4 ++ t : Byte).extractLsb' 4 4 = 7#4 ∧ (7#4 ++ t : Byte).extractLsb' 0 4 = t := by
    revert t; decide
  have beside : ∀ b ∈ [0x0F#8, 0x62#8, 0x68#8, 0x69#8, 0x6A#8, 0x6B#8, 0x6C#8, 0x6D#8, 0x6E#8, 0x6F#8],
      (7#4 ++ t : Byte) ≠ b := by
    revert t; decide
  obtain ⟨above, below, high, low⟩ := block
  have above40 : ¬ (7#4 ++ t : Byte).toNat < 0x40 := by omega
  simp only [List.forall_mem_cons] at beside
  simp only [decodeOpcode, decodeMiddle, beside, above, above40, below, high, low, noSize, noSeg, Bool.false_and,
    Option.isSome_none, Bool.false_eq_true, if_true, if_false]

theorem decodeOpcode_jcc32 (t : BitVec 4) (bs : List Byte) :
    decodeOpcode { op16 := false, rep := false, seg := none } 0x0F#8 ([8#4 ++ t] ++ bs) =
      build (fun d => jumpIf t (.disp32 d)) (takeImm 32 bs) := by
  have halves : (8#4 ++ t : Byte).extractLsb' 4 4 = 8#4 ∧ (8#4 ++ t : Byte).extractLsb' 0 4 = t := by
    revert t; decide
  have twoByte : decodeOpcode { op16 := false, rep := false, seg := none } 0x0F#8 ([8#4 ++ t] ++ bs) =
      decodeTwoByte { op16 := false, rep := false, seg := none } (8#4 ++ t) bs := rfl
  rw [twoByte, decodeTwoByte, halves.1, halves.2, if_pos rfl]
  rfl

/-! ### Families of rows -/

/-- Decoding the words of `i` gives its first spelling. -/
def ReadBack (i : Instr) (rest : List Byte) : Prop := decode (encode i ++ rest) = .ok (i.canon, (encode i).length)

section
variable {i : Instr} {rest : List Byte}

theorem readBack_pushSeg {r : SReg} (words : encode i = encPushSeg r) (first : i.canon = .pushl (.sreg r)) :
    ReadBack i rest := by
  rw [ReadBack, words, first]
  cases r with
  | es | cs | ss | ds | fs | gs => exact decode_opcode rfl rfl

theorem readBack_popSeg {r : SReg} (loadable : r.poppable = true) (words : encode i = encPopSeg r)
    (first : i.canon = .popl (.sreg r)) : ReadBack i rest := by
  rw [ReadBack, words, first]
  cases r with
  | cs => exact nomatch loadable
  | es | ss | ds | fs | gs => exact decode_opcode rfl rfl

/-- The condition is the low half of the opcode, in either displacement form (R250, R252). -/
theorem readBack_jcc {t : BitVec 4} {f : JumpForm} (words : encode i = encJcc t f) (first : i.canon = jumpIf t f) :
    ReadBack i rest := by
  rw [ReadBack, words, first]
  cases f with
  | disp8 d =>
    exact decode_imm (sz := .long) (ops := []) (takeImm8 d rest) (jcc8_noPrefix t) (decodeOpcode_jcc8 t) (by rfl)
  | disp32 d =>
    exact decode_imm (sz := .long) (ops := [8#4 ++ t]) (takeImm_immBytes32 d rest) rfl (decodeOpcode_jcc32 t) (by rfl)

end

theorem readBack (i : Instr) (rest : List Byte) (wf : WellFormed i) : ReadBack i rest := by
  cases i with
  | ldsw m _ | lesw m _ | lfsw m _ | lgsw m _ | lssw m _ | boundw _ m =>
    exact decode_modRM_form (m := .mem m) (code := Reg16.code) wf rfl (fun _ => rfl) (by simp [RM.map, Instr.canon])
  | ldsl m _ | lesl m _ | lfsl m _ | lgsl m _ | lssl m _ | boundl _ m =>
    exact decode_modRM_form (m := .mem m) (code := Reg32.code) wf rfl (fun _ => rfl) (by simp [RM.map, Instr.canon])
  | popw f =>
    cases f with
    | reg r => cases r <;> exact decode_encPlain rfl rfl
    | rm m => exact decode_modRM (m := m) wf rfl (fun _ => rfl) (by simp [Instr.canon])
  | popl f =>
    cases f with
    | reg r => cases r <;> exact decode_encPlain rfl rfl
    | rm m => exact decode_modRM (m := m) wf rfl (fun _ => rfl) (by simp [Instr.canon])
    | sreg r => exact readBack_popSeg wf rfl rfl
  | pop r => exact readBack_popSeg wf rfl rfl
  | pushw f =>
    cases f with
    | reg r => cases r <;> exact decode_encPlain rfl rfl
    | rm m => exact decode_modRM (m := m) wf rfl (fun _ => rfl) (by simp [Instr.canon])
    | imm8 v => exact decode_imm (takeImm8 v rest) rfl (fun _ => rfl) rfl
    | imm v => exact decode_imm (takeImm_immBytes16 v rest) rfl (fun _ => rfl) rfl
  | pushl f =>
    cases f with
    | reg r => cases r <;> exact decode_encPlain rfl rfl
    | rm m => exact decode_modRM (m := m) wf rfl (fun _ => rfl) (by simp [Instr.canon])
    | imm8 v => exact decode_imm (takeImm8 v rest) rfl (fun _ => rfl) rfl
    | imm v => exact decode_imm (takeImm_immBytes32 v rest) rfl (fun _ => rfl) rfl
    | sreg r => exact readBack_pushSeg rfl rfl
  | push r => exact readBack_pushSeg rfl rfl
  | inb f | inw f | inl f | outb f | outw f | outl f =>
    cases f with
    | imm8 v => exact decode_imm (takeImm8 v rest) rfl (fun _ => rfl) rfl
    | dx => exact decode_encPlain rfl rfl
  | insb | insw | insl => exact decode_encPlain rfl rfl
  | rep_insb | rep_insw | rep_insl => exact decode_repString (seg := none) rfl rfl
  | outsb g | outsw g | outsl g => exact decode_string rfl rfl
  | rep_outsb g | rep_outsw g | rep_outsl g => exact decode_repString rfl rfl
  | lahf | sahf | cmc | clc | stc | cli | sti | cld | std => exact decode_opcode rfl rfl
  | popfw | popfl | pushfw | pushfl => exact decode_encPlain rfl rfl
  | addb f | orb f | adcb f | sbbb f | andb f | subb f | xorb f | cmpb f =>
    cases f with
    | regRm r m | rmReg m r =>
      exact decode_modRM_form (m := m) wf rfl (fun _ => rfl) (by simp [aluB, packFields, OpSize.bit, Instr.canon])
    | immAcc v =>
      exact decode_imm_form (imm := immBytes v) (v := v) (by simp) rfl (fun _ => rfl) rfl
    | immRm v m => exact decode_modRM (m := m) wf rfl (fun _ => rfl) (by simp [aluB, Instr.canon])
    | imm8Rm v m => exact nomatch wf
  | addw f | orw f | adcw f | sbbw f | andw f | subw f | xorw f | cmpw f =>
    cases f with
    | regRm r m | rmReg m r =>
      exact decode_modRM_form (m := m) wf rfl (fun _ => rfl) (by simp [aluW, packFields, OpSize.bit, Instr.canon])
    | immAcc v =>
      exact decode_imm_form (imm := immBytes v) (v := v) (by simp) rfl (fun _ => rfl) rfl
    | immRm v m => exact decode_modRM (m := m) wf rfl (fun _ => rfl) (by simp [aluW, Instr.canon])
    | imm8Rm v m => exact decode_modRM (m := m) wf rfl (fun _ => rfl) (by simp [aluW, Instr.canon])
  | addl f | orl f | adcl f | sbbl f | andl f | subl f | xorl f | cmpl f =>
    cases f with
    | regRm r m | rmReg m r =>
      exact decode_modRM_form (m := m) wf rfl (fun _ => rfl) (by simp [aluL, packFields, OpSize.bit, Instr.canon])
    | immAcc v =>
      exact decode_imm_form (imm := immBytes v) (v := v) (by simp) rfl (fun _ => rfl) rfl
    | immRm v m => exact decode_modRM (m := m) wf rfl (fun _ => rfl) (by simp [aluL, Instr.canon])
    | imm8Rm v m => exact decode_modRM (m := m) wf rfl (fun _ => rfl) (by simp [aluL, Instr.canon])
  | incb m | decb m | notb m | notw m | notl m | negb m | negw m | negl m | mulb m | mulw m | mull m | mul m | imulb m
  | divb m | divw m | divl m | div m =>
    exact decode_modRM (m := m) wf rfl (fun _ => rfl) (by simp [Instr.canon])
  | incw f | incl f | decw f | decl f =>
    cases f with
    | rm m => exact decode_modRM (m := m) wf rfl (fun _ => rfl) (by simp [Instr.canon])
    | reg r => cases r <;> exact decode_encPlain rfl rfl
  | testb f | testw f | testl f =>
    cases f with
    | regRm r m | rmReg m r =>
      exact decode_modRM (m := m) wf rfl (fun _ => rfl) (by simp [TestForm.canon, Instr.canon])
    | immAcc v => exact decode_imm (imm := immBytes v) (v := v) (by simp) rfl (fun _ => rfl) rfl
    | immRm v m => exact decode_modRM (m := m) wf rfl (fun _ => rfl) (by simp [TestForm.canon, Instr.canon])
  | salb f | shlb f | shrb f | sarb f | salw f | shlw f | shrw f | sarw f | sall f | shll f | shrl f | sarl f =>
    cases f with
    | imm c m | one m | cl m =>
      exact decode_modRM (m := m) wf rfl (fun _ => rfl) (by simp [shiftB, shiftW, shiftL, withRest, Instr.canon])
  | shldw f | shldl f | shrdw f | shrdl f =>
    cases f with
    | imm c r m | cl r m => exact decode_modRM (m := m) wf rfl (fun _ => rfl) (by simp [Instr.canon])
  | imulw f | imull f | imul f =>
    cases f with
    | one m | two m _ | three8 _ m _ | three _ m _ =>
      exact decode_modRM (m := m) wf rfl (fun _ => rfl) (by simp [Instr.canon])
  | jmp f =>
    cases f with
    | disp8 d => exact decode_imm (sz := .long) (ops := []) (takeImm8 d rest) rfl (fun _ => rfl) rfl
    | disp32 d => exact decode_imm (sz := .long) (ops := []) (takeImm_immBytes32 d rest) rfl (fun _ => rfl) rfl
  | jo _ | jno _ | jb _ | jc _ | jnae _ | jae _ | jnb _ | jnc _ | je _ | jz _ | jne _ | jnz _ | jbe _ | jna _ | ja _
  | jnbe _ | js _ | jns _ | jp _ | jpe _ | jnp _ | jpo _ | jl _ | jnge _ | jge _ | jnl _ | jle _ | jng _ | jg _
  | jnle _ => exact readBack_jcc rfl rfl

/-- Settles O1: each row is its prefixes, its opcode and its fields, each read back as it was written. -/
theorem decodeOfEncodeIsTheInstruction : Obligations.DecodeOfEncodeIsTheInstruction := by
  unfold Obligations.DecodeOfEncodeIsTheInstruction
  exact readBack

/-! ### The longest words (R75) -/

open Laws.Spelling in
theorem encode_length_le (i : Instr) : (encode i).length ≤ maxInstrBytes := by
  cases i with
  | ldsw _ _ | ldsl _ _ | lesw _ _ | lesl _ _ | lfsw _ _ | lfsl _ _ | lgsw _ _ | lgsl _ _ | lssw _ _ | lssl _ _
  | boundw _ _ | boundl _ _ => exact memReg_le _ _ _ (by decide)
  | popw f => exact pop_le f
  | popl f => exact popLong_le f
  | pop r => exact popSeg_le r
  | pushw f => exact push_le f
  | pushl f => exact pushLong_le f
  | push r => exact pushSeg_le r
  | inb f | inw f | inl f | outb f | outw f | outl f => exact port_le _ f
  | insb | rep_insb | insw | rep_insw | insl | rep_insl => decide
  | outsb g | rep_outsb g | outsw g | rep_outsw g | outsl g | rep_outsl g =>
    cases g <;> simp [encode, segBytes, encPlain, OpSize.prefixBytes, maxInstrBytes]
  | lahf | sahf | cmc | clc | stc | cli | sti | cld | std | popfw | popfl | pushfw | pushfl => decide
  | addb f | addw f | addl f | orb f | orw f | orl f | adcb f | adcw f | adcl f | sbbb f | sbbw f | sbbl f | andb f
  | andw f | andl f | subb f | subw f | subl f | xorb f | xorw f | xorl f | cmpb f | cmpw f | cmpl f =>
    exact alu_le _ _ f (by decide)
  | incb m | decb m => exact one_le _ _ m
  | incw f | incl f | decw f | decl f => exact inc_le _ _ f
  | testb f | testw f | testl f => exact test_le _ f (by decide)
  | salb f | salw f | sall f | shlb f | shlw f | shll f | shrb f | shrw f | shrl f | sarb f | sarw f | sarl f =>
    exact shift_le _ _ f
  | shldw f | shldl f | shrdw f | shrdl f => exact dshift_le _ _ f
  | notb m | notw m | notl m | negb m | negw m | negl m | mulb m | mulw m | mull m | mul m | imulb m | divb m | divw m
  | divl m | div m => exact group3_le _ _ m
  | imulw f | imull f | imul f => exact imul_le _ f (by decide)
  | jmp f => exact jmp_le f
  | jo f | jno f | jb f | jc f | jnae f | jae f | jnb f | jnc f | je f | jz f | jne f | jnz f | jbe f | jna f | ja f
  | jnbe f | js f | jns f | jp f | jpe f | jnp f | jpo f | jl f | jnge f | jge f | jnl f | jle f | jng f | jg f
  | jnle f => exact jcc_le _ f

end Sys2Proof

namespace Sys2Proof.Machine

/-! ### Fetching what stands in the program text (R292) -/

theorem step_of_fetch {s : State} {i : Instr} {n : Nat} (running : ended s = false) (fetched : fetch s = .ok (i, n)) :
    step s = exec i (s.setLen (BitVec.ofNat 32 n)) := by
  simp [step, running, fetched]

theorem step_of_fetch_error {s : State} {e : Stop} (running : ended s = false) (stops : fetch s = .error e) :
    step s = outcome (.error e) := by
  simp [step, running, stops]

/-- Bytes that stand in the text are fetched first. -/
theorem textBytes_append (s : State) (bs : List Byte) (k a : Nat) (below : a + bs.length ≤ addressSpace)
    (stand : ∀ j (h : j < bs.length), s.plat.text.holds (a + j) = true ∧ s.mem.read (a + j) = bs[j]) :
    textBytes s (bs.length + k) a = bs ++ textBytes s k (a + bs.length) := by
  induction bs generalizing a with
  | nil => simp
  | cons b bs ih =>
    have counts : (b :: bs).length + k = bs.length + k + 1 ∧ a + (b :: bs).length = a + 1 + bs.length := by
      simp only [List.length_cons]
      omega
    have inSpace : a < addressSpace := by omega
    obtain ⟨inText, first⟩ : s.plat.text.holds a = true ∧ s.mem.read a = b := stand 0 (Nat.zero_lt_succ _)
    have later : textBytes s (bs.length + k) (a + 1) = bs ++ textBytes s k (a + 1 + bs.length) := by
      refine ih (a + 1) (by omega) fun j hj => ?_
      rw [Nat.add_assoc, Nat.add_comm 1 j]
      exact stand (j + 1) (Nat.succ_lt_succ hj)
    rw [counts.1, counts.2, textBytes, inText, decide_eq_true inSpace, first, later]
    rfl

theorem fetch_of_textHolds {s : State} {i : Instr} (wf : WellFormed i) (stands : textHolds s (encode i))
    (below : s.pc.toNat + (encode i).length ≤ addressSpace) : fetch s = .ok (i.canon, (encode i).length) := by
  obtain ⟨inSpace, bytes⟩ := stands
  have short := encode_length_le i
  have first := textBytes_append s (encode i) (15 - (encode i).length) _ inSpace bytes
  rw [Nat.add_sub_cancel' (short.trans (by decide))] at first
  exact fetch_ok.2 ⟨by rw [fetchBytes, first]; exact readBack i _ wf, below⟩

/-- Settles O6: the fetch takes the words whole, and the decoder reads them back. -/
theorem stepRunsEncodedInstruction : Obligations.StepRunsEncodedInstruction := by
  unfold Obligations.StepRunsEncodedInstruction
  exact fun s i running wf stands below => step_of_fetch running (fetch_of_textHolds wf stands below)

/-- Settles O5: a step is its fetch and `exec`. -/
theorem stepRunsDecodedInstruction : Obligations.StepRunsDecodedInstruction := by
  unfold Obligations.StepRunsDecodedInstruction
  exact fun s i n running decoded below => step_of_fetch running (fetch_ok.2 ⟨decoded, below⟩)

theorem fetch_of_rejected {s : State} {e : DecodeError} (rejected : decode (fetchBytes s) = .error e) :
    fetch s = refuse (if e = .truncated then .outsideText else .undecodable e) := by
  unfold fetch
  split
  next decoded => rw [rejected] at decoded; cases decoded
  next ranOut => rw [rejected] at ranOut; cases ranOut; rfl
  next e' other named =>
    rw [rejected] at named
    cases named
    rw [if_neg other]

theorem fetch_of_pastTop {s : State} {i : Instr} {n : Nat} (decoded : decode (fetchBytes s) = .ok (i, n))
    (above : addressSpace < s.pc.toNat + n) : fetch s = refuse .pcPastTop := by
  simp [fetch, decoded, above]

/-- Settles O7: the two ends of a step before `exec`, and the end of the run before both. -/
theorem stepWhereNothingRuns : Obligations.StepWhereNothingRuns := by
  unfold Obligations.StepWhereNothingRuns
  refine ⟨fun s atEnd => ?ended, fun s running => ⟨fun e rejected => ?rejected, fun i n decoded above => ?pastTop⟩⟩
  case ended => simp [step, ended, atEnd]
  case rejected => exact step_of_fetch_error running (fetch_of_rejected rejected)
  case pastTop => exact step_of_fetch_error running (fetch_of_pastTop decoded above)

end Sys2Proof.Machine
end

section
/-! PROOFS of the statements about spellings and representations, about memory and addresses, and about the reset and
launch states. -/

namespace Sys2Proof.Machine

/-! ### Fixed words (R79, R83, R95) -/

/-- Settles O3: the decoder run on each of the words. -/
theorem specWordsDecode : Obligations.SpecWordsDecode := by
  unfold Obligations.SpecWordsDecode
  decide

/-- Settles O4: the decoder run on each of the byte sequences. -/
theorem reservedBytesRejected : Obligations.ReservedBytesRejected := by
  unfold Obligations.ReservedBytesRejected
  decide

/-! ### Spellings that share their words (R74, R85) -/

theorem andEffect_comm {w : Nat} (d v : BitVec w) (s : State) : andEffect d v s = andEffect v d s := by
  rw [andEffect, BitVec.and_comm, andEffect]

/-- The two orders of `test` read the same operands and AND is commutative (R168). -/
theorem compare_and_canon {ρ : Type} {w : Nat} (part : ρ → Part) (f : TestForm ρ w) (s : State) :
    compare andEffect (testOperands part f) s = compare andEffect (testOperands part f.canon) s := by
  cases f with
  | regRm _ _ | immAcc _ | immRm _ _ => rfl
  | rmReg m r =>
    have swapped : ∀ x : Except Stop (BitVec w),
        (x >>= fun v => (.ok (readPart w (part r) s) : Except Stop (BitVec w)) >>= fun d =>
          pure ((s.setFlags (andEffect d v s).flags).drew (andEffect d v s).used).advance) =
        ((.ok (readPart w (part r) s) : Except Stop (BitVec w)) >>= fun v => x >>= fun d =>
          pure ((s.setFlags (andEffect d v s).flags).drew (andEffect d v s).used).advance) := fun x => by
      simp only [ok_bind, andEffect_comm]
    exact swapped (readRM w (m.map part) s)

/-- Settles O23: the arms of `exec` for synonyms are one meaning, but for `test`, where AND commutes. -/
theorem synonymsMeanTheSame : Obligations.SynonymsMeanTheSame := by
  unfold Obligations.SynonymsMeanTheSame
  intro i s
  cases i with
  | testb f => exact congrArg outcome (compare_and_canon Reg8.part f s)
  | testw f => exact congrArg outcome (compare_and_canon Reg16.part f s)
  | testl f => exact congrArg outcome (compare_and_canon Reg32.part f s)
  | _ => rfl

/-! ### Representations (R73, R81) -/

theorem byteAlu_representations : ∀ mk ∈ byteAlu, aluRepresentations .al mk := by
  intro mk h
  simp only [byteAlu, List.mem_cons, List.not_mem_nil, or_false] at h
  rcases h with rfl | rfl | rfl | rfl | rfl | rfl | rfl | rfl <;> exact ⟨fun _ _ => rfl, fun _ _ _ => rfl⟩

theorem wordAlu_representations : ∀ mk ∈ wordAlu, aluRepresentations .ax mk ∧ imm8Representation mk := by
  intro mk h
  simp only [wordAlu, List.mem_cons, List.not_mem_nil, or_false] at h
  rcases h with rfl | rfl | rfl | rfl | rfl | rfl | rfl | rfl <;>
    exact ⟨⟨fun _ _ => rfl, fun _ _ _ => rfl⟩, fun _ _ _ => rfl⟩

theorem longAlu_representations : ∀ mk ∈ longAlu, aluRepresentations .eax mk ∧ imm8Representation mk := by
  intro mk h
  simp only [longAlu, List.mem_cons, List.not_mem_nil, or_false] at h
  rcases h with rfl | rfl | rfl | rfl | rfl | rfl | rfl | rfl <;>
    exact ⟨⟨fun _ _ => rfl, fun _ _ _ => rfl⟩, fun _ _ _ => rfl⟩

theorem byteShifts_representations : ∀ mk ∈ byteShifts, shiftRepresentation mk := by
  intro mk h
  simp only [byteShifts, List.mem_cons, List.not_mem_nil, or_false] at h
  rcases h with rfl | rfl | rfl | rfl <;> exact fun _ _ => rfl

theorem wordShifts_representations : ∀ mk ∈ wordShifts, shiftRepresentation mk := by
  intro mk h
  simp only [wordShifts, List.mem_cons, List.not_mem_nil, or_false] at h
  rcases h with rfl | rfl | rfl | rfl <;> exact fun _ _ => rfl

theorem longShifts_representations : ∀ mk ∈ longShifts, shiftRepresentation mk := by
  intro mk h
  simp only [longShifts, List.mem_cons, List.not_mem_nil, or_false] at h
  rcases h with rfl | rfl | rfl | rfl <;> exact fun _ _ => rfl

/-- Settles O24: the two operand forms of each pair name the same operands. -/
theorem representationsMeanTheSame : Obligations.RepresentationsMeanTheSame := by
  unfold Obligations.RepresentationsMeanTheSame
  refine ⟨⟨byteAlu_representations, wordAlu_representations, longAlu_representations⟩, ⟨?test8, ?test16, ?test32⟩,
    ⟨?shortWord, ?shortLong⟩, ?push8,
    ⟨byteShifts_representations, wordShifts_representations, longShifts_representations⟩, ?imulw, ?imull, ?imul⟩
  case test8 | test16 | test32 => exact fun _ _ => rfl
  case shortWord | shortLong => exact fun _ => ⟨fun _ => rfl, fun _ => rfl, fun _ => rfl, fun _ => rfl⟩
  case push8 => exact fun _ => ⟨fun _ => rfl, fun _ => rfl⟩
  case imulw | imull | imul => exact fun _ _ _ _ => rfl

/-! ### Memory (R51, R52) -/

theorem Memory.readLE_eq_sum (m : Memory) (a n : Nat) :
    m.readLE a n = ((List.range n).map fun i => (m.read (a + i)).toNat * 256 ^ i).sum := by
  induction n generalizing a with
  | zero => rfl
  | succ n ih =>
    have shifted : ∀ i, (m.read (a + (i + 1))).toNat * 256 ^ (i + 1) =
        256 * ((m.read (a + 1 + i)).toNat * 256 ^ i) := fun i => by
      rw [pow_succ, Nat.add_right_comm a 1 i, Nat.add_assoc]
      ring
    rw [Memory.readLE, ih, List.range_succ_eq_map, List.map_cons, List.sum_cons, List.map_map]
    simp [Function.comp_def, shifted, List.sum_map_mul_left]

/-- What an item of a whole number of bytes reads as is below `2^w`. -/
theorem Memory.toNat_ofNat_readLE {w : Nat} (m : Memory) (a : Nat) (bytes : 8 * (w / 8) = w) :
    (BitVec.ofNat w (m.readLE a (w / 8))).toNat = m.readLE a (w / 8) := by
  have fits := m.readLE_lt a (w / 8)
  rw [show 256 = 2 ^ 8 from rfl, ← Nat.pow_mul, bytes] at fits
  rw [BitVec.toNat_ofNat, Nat.mod_eq_of_lt fits]

/-- Settles O57: a load is `readLE`, a store `writeLE`. -/
theorem memoryPrimitives : Obligations.MemoryPrimitives := by
  unfold Obligations.MemoryPrimitives
  refine ⟨fun s a w width readable => ?load, fun s a w v width writable => ?store⟩
  case load =>
    have bytes : 8 * (w / 8) = w := by omega
    exact ⟨_, load_eq readable, by rw [Memory.toNat_ofNat_readLE _ _ bytes, Memory.readLE_eq_sum]⟩
  case store =>
    refine ⟨_, store_eq writable, keepsBytesOutside_writeLE rfl, fun i hi => ?_⟩
    rw [State.setMem_mem, Memory.read_writeLE_inside _ _ _ _ _ hi, BitVec.toNat_ofNat]

/-! ### Addresses (R53 to R55) -/

/-- Settles O58: the two addresses are sums of longs. -/
theorem addressOfMemoryOperand : Obligations.AddressOfMemoryOperand := by
  unfold Obligations.AddressOfMemoryOperand
  refine fun s m => ⟨?effective, BitVec.toNat_add _ _, fun r override => ?override, fun none => ?default⟩
  case effective =>
    rcases m with ⟨seg, base, _ | ⟨i, k⟩, d⟩
    · cases base <;> simp [effectiveAddress, baseValue, indexValue, Nat.mod_eq_of_lt d.isLt]
    · cases base <;> cases k <;> simp [effectiveAddress, baseValue, indexValue, Scale.factor]
  case override => simp [segmentOf, override]
  case default =>
    rw [segmentOf, none]
    rcases m.base with _ | b
    · rfl
    · cases b <;> rfl

/-! ### Ports (R271) -/

/-- Settles O49: `ioPermitted` spelled out. -/
theorem portPermissionRule : Obligations.PortPermissionRule := by
  unfold Obligations.PortPermissionRule
  simp [ioPermitted, Range.holds]

/-! ### Reset and launch (R275, R290, R291) -/

theorem reset_quiet : State.reset.Quiet := ⟨rfl, rfl, rfl, rfl, rfl, by decide⟩

theorem loadText_quiet {s : State} (code : List Byte) (quiet : s.Quiet) : (loadText code s).Quiet :=
  ⟨Memory.wf_writeBytes _ _ code quiet.mem, quiet.tf, quiet.ac, quiet.vm, quiet.rf, quiet.db7⟩

theorem launch_quiet (start : Word) (code : List Byte) : (launch start code).Quiet := by
  obtain ⟨mem, tf, ac, vm, rf, db7⟩ := reset_quiet
  obtain ⟨mem, tf, ac, vm, rf, db7⟩ := loadText_quiet (s := { State.reset with
    pc := start
    sys := { State.reset.sys with cr0 := State.reset.sys.cr0 ||| 1#32 }
    plat := { State.reset.plat with segBase := ⟨0#32, 0#32, 0#32, 0#32, 0#32, 0#32⟩ } }) code ⟨mem, tf, ac, vm, rf, db7⟩
  exact ⟨mem, tf, ac, vm, rf, db7⟩

/-- Settles O9: a launch loads its code into the quiet reset state and sets CR0.PE. -/
theorem launchMeetsItsPremises : Obligations.LaunchMeetsItsPremises := by
  unfold Obligations.LaunchMeetsItsPremises
  have launched : (State.reset.sys.cr0 ||| 1#32).getLsbD 0 = true := by decide
  exact ⟨fun start code => ⟨launch_quiet start code, launched⟩, reset_quiet, by decide⟩

/-- Settles O10: the fields of `State.reset`. -/
theorem resetOrientationValues : Obligations.ResetOrientationValues := by
  unfold Obligations.ResetOrientationValues
  refine ⟨rfl, rfl, rfl, rfl, fun r data => ?_, rfl, rfl, rfl, rfl, rfl, rfl, rfl, rfl, rfl, rfl, rfl, rfl, rfl, rfl,
    rfl, rfl⟩
  cases r with
  | cs => exact absurd rfl data
  | _ => exact ⟨rfl, rfl⟩

end Sys2Proof.Machine
end

section
/-! PROOFS of the statements about what may stop an instruction: a fault its rule names, or a refusal of a named
situation. Each operation is held to the rows of its instruction in the tables of Safety.lean. -/

namespace Sys2Proof.Machine

/-- What instruction `i` may be stopped by in `s`. -/
def MayStop (i : Instr) (s : State) : Stop → Prop
  | .fault f => raises i s f
  | .refuse r => refusesFor i s r

theorem outcome_error {x : Except Stop State} {e : Stop} : outcome x = outcome (.error e) ↔ x = .error e := by
  cases e with
  | fault f => exact outcome_fault x f
  | refuse r => exact outcome_refused x r

section
variable {i : Instr} {s : State} {e : Stop} {w : Nat}

/-! ### Accesses -/

theorem mayStop_of_read {a : Word} {n : Nat} (h : checkAccess .read a n s = .error e)
    (row : (a, n) ∈ loadedBytes i s) : MayStop i s e := by
  obtain ⟨rfl, -⟩ | ⟨rfl, barred⟩ | ⟨-, impossible, -⟩ := checkAccess_error h
  · trivial
  · exact ⟨rfl, .inl ⟨a, n, row, barred⟩⟩
  · exact nomatch impossible

theorem mayStop_of_write {a : Word} {n : Nat} (h : checkAccess .write a n s = .error e)
    (row : storedBytes i s = some (a, n)) : MayStop i s e := by
  obtain ⟨rfl, -⟩ | ⟨rfl, barred⟩ | ⟨rfl, -⟩ := checkAccess_error h
  · trivial
  · exact ⟨rfl, .inr ⟨a, n, row, barred⟩⟩
  · trivial

theorem mayStop_of_readRM {x : RM Part} (h : readRM w x s = .error e)
    (rows : rmBytes w x s ⊆ loadedBytes i s) : MayStop i s e := by
  obtain ⟨a, located, stops⟩ := readLoc_error h
  exact mayStop_of_read stops (rows (by simp [rmBytes, destBytes, located]))

theorem mayStop_of_readSrc {x : Src w} (h : readSrc x s = .error e) (rows : srcBytes x s ⊆ loadedBytes i s) :
    MayStop i s e := by
  cases x with
  | imm v => exact nomatch h
  | rm m => exact mayStop_of_readRM h rows

/-- The operand is written in a state `t` that the access rules see as `s`. -/
theorem mayStop_of_writeLoc {x : RM Part} {v : BitVec w} {t : State} (plat : t.plat = s.plat) (pc : t.pc = s.pc)
    (h : writeLoc (locate t x) v t = .error e) (row : storedBytes i s = destBytes w x t) : MayStop i s e := by
  obtain ⟨a, located, stops⟩ := writeLoc_error h
  rw [checkAccess_congr plat pc] at stops
  exact mayStop_of_write stops (by rw [row, destBytes, located])

theorem mayStop_of_top (h : top w s = .error e) (row : loadedBytes i s = stackTop w s) : MayStop i s e :=
  mayStop_of_read (load_error.1 h) (by rw [row]; exact List.mem_singleton.2 rfl)

theorem mayStop_of_push {v : BitVec w} (h : push v s = .error e)
    (row : storedBytes i s = some (pushAddress w s, w / 8)) : MayStop i s e :=
  mayStop_of_write (push_error.1 h) row

theorem mayStop_of_loadSegment {r : SReg} {sel : Half} (h : loadSegment r sel s = .error e)
    (row : r ∈ writtenSegments i) : MayStop i s e := by
  obtain ⟨unloadable, rfl⟩ := loadSegment_error.1 h
  exact ⟨rfl, r, row, unloadable⟩

/-- At `CPL <= IOPL` every port is permitted. -/
theorem iopl_lt_of_not_permitted {p : Half} {n : Nat} (h : ioPermitted s p n = false) :
    s.flags.iopl.toNat < s.cpl.toNat := by
  simp only [ioPermitted, Bool.or_eq_false_iff, decide_eq_false_iff_not] at h
  exact Nat.lt_of_not_le h.1

theorem mayStop_of_requirePort {p : Half} {n : Nat} (h : requirePort p n s = .error e)
    (port : isPortAccess i = true) : MayStop i s e := by
  obtain ⟨barred, rfl⟩ := requirePort_error.1 h
  exact ⟨rfl, port, iopl_lt_of_not_permitted barred⟩

/-! ### Arithmetic, logic, shifts -/

theorem writeBack_error {o : Effect w} {l : Loc} : writeBack o l s = .error e ↔ writeLoc l o.result s = .error e := by
  simp [writeBack, bind_error]

theorem update_mayStop {op : BitVec w → BitVec w → State → Effect w} {x : Src w × RM Part}
    (h : outcome (update op x s) = outcome (.error e)) (reads : loadedBytes i s = bothBytes w x s)
    (writes : storedBytes i s = destBytes w x.2 s) : MayStop i s e := by
  rw [outcome_error, update, bind_error] at h
  obtain stop | ⟨v, -, h⟩ := h
  · exact mayStop_of_readSrc stop (reads ▸ List.subset_append_left _ _)
  obtain stop | ⟨d, -, stop⟩ := bind_error.1 h
  · exact mayStop_of_readRM stop (reads ▸ List.subset_append_right _ _)
  · exact mayStop_of_writeLoc rfl rfl (writeBack_error.1 stop) writes

theorem compare_mayStop {op : BitVec w → BitVec w → State → Effect w} {x : Src w × RM Part}
    (h : outcome (compare op x s) = outcome (.error e)) (reads : loadedBytes i s = bothBytes w x s) :
    MayStop i s e := by
  rw [outcome_error, compare, bind_error] at h
  obtain stop | ⟨v, -, h⟩ := h
  · exact mayStop_of_readSrc stop (reads ▸ List.subset_append_left _ _)
  obtain stop | ⟨d, -, ends⟩ := bind_error.1 h
  · exact mayStop_of_readRM stop (reads ▸ List.subset_append_right _ _)
  · exact nomatch ends

theorem modify_mayStop {op : BitVec w → State → Effect w} {x : RM Part}
    (h : outcome (modify op x s) = outcome (.error e)) (reads : loadedBytes i s = rmBytes w x s)
    (writes : storedBytes i s = destBytes w x s) : MayStop i s e := by
  rw [outcome_error, modify, bind_error] at h
  obtain stop | ⟨d, -, stop⟩ := h
  · exact mayStop_of_readRM stop (reads ▸ List.Subset.refl _)
  · exact mayStop_of_writeLoc rfl rfl (writeBack_error.1 stop) writes

/-- A shift stores only when its count is not 0, and then to the bytes its row names. -/
theorem mayStop_of_shifted {o : Effect w} {k : Count} {x : RM Part}
    (h : (if countValue s k = 0 then pure s.advance else writeBack o (locate s x) s : Except Stop State) = .error e)
    (writes : storedBytes i s = shiftedBytes w k x s) : MayStop i s e := by
  split at h
  next => exact nomatch h
  next nonzero =>
    rw [shiftedBytes, if_neg nonzero] at writes
    exact mayStop_of_writeLoc rfl rfl (writeBack_error.1 h) writes

theorem shift_mayStop {op : BitVec w → Nat → State → Effect w} {x : Count × RM Part}
    (h : outcome (shift op x s) = outcome (.error e)) (reads : loadedBytes i s = rmBytes w x.2 s)
    (writes : storedBytes i s = shiftedBytes w x.1 x.2 s) : MayStop i s e := by
  rw [outcome_error, shift, bind_error] at h
  obtain stop | ⟨d, -, stop⟩ := h
  · exact mayStop_of_readRM stop (reads ▸ List.Subset.refl _)
  · exact mayStop_of_shifted stop writes

theorem doubleShift_mayStop {op : BitVec w → BitVec w → Nat → State → Effect w} {x : Count × Part × RM Part}
    (h : outcome (doubleShift op x s) = outcome (.error e)) (reads : loadedBytes i s = rmBytes w x.2.2 s)
    (writes : storedBytes i s = shiftedBytes w x.1 x.2.2 s) : MayStop i s e := by
  rw [outcome_error, doubleShift, bind_error] at h
  obtain stop | ⟨d, -, stop⟩ := h
  · exact mayStop_of_readRM stop (reads ▸ List.Subset.refl _)
  · exact mayStop_of_shifted stop writes

/-! ### Multiply, divide, bounds -/

theorem multiply_mayStop {x : RM Part} (h : outcome (multiply w x s) = outcome (.error e))
    (reads : loadedBytes i s = rmBytes w x s) : MayStop i s e := by
  rw [outcome_error, multiply, bind_error] at h
  obtain stop | ⟨v, -, ends⟩ := h
  · exact mayStop_of_readRM stop (reads ▸ List.Subset.refl _)
  · exact nomatch ends

theorem signedMultiply_mayStop {x : RM Part} (h : outcome (signedMultiply w x s) = outcome (.error e))
    (reads : loadedBytes i s = rmBytes w x s) : MayStop i s e := by
  rw [outcome_error, signedMultiply, bind_error] at h
  obtain stop | ⟨v, -, ends⟩ := h
  · exact mayStop_of_readRM stop (reads ▸ List.Subset.refl _)
  · exact nomatch ends

theorem signedMultiplyInto_mayStop {a : BitVec w} {x : RM Part} {dst : Part}
    (h : outcome (signedMultiplyInto a x dst s) = outcome (.error e)) (reads : loadedBytes i s = rmBytes w x s) :
    MayStop i s e := by
  rw [outcome_error, signedMultiplyInto, bind_error] at h
  obtain stop | ⟨v, -, ends⟩ := h
  · exact mayStop_of_readRM stop (reads ▸ List.Subset.refl _)
  · exact nomatch ends

theorem imulForm_mayStop {ρ : Type} {part : ρ → Part} {f : ImulForm ρ w}
    (h : outcome (imulForm part f s) = outcome (.error e)) (reads : loadedBytes i s = imulBytes part f s) :
    MayStop i s e := by
  cases f with
  | one _ => exact signedMultiply_mayStop h reads
  | two _ _ | three8 _ _ _ | three _ _ _ => exact signedMultiplyInto_mayStop h reads

theorem divide_mayStop {x : RM Part} (h : outcome (divide w x s) = outcome (.error e))
    (reads : loadedBytes i s = rmBytes w x s) (own : raises i s (.divideError s.pc)) : MayStop i s e := by
  rw [outcome_error, divide, bind_error] at h
  obtain stop | ⟨v, -, h⟩ := h
  · exact mayStop_of_readRM stop (reads ▸ List.Subset.refl _)
  dsimp only at h
  split at h
  · obtain rfl := (raise_eq_error _ _ _).1 h
    exact own
  split at h
  · obtain rfl := (raise_eq_error _ _ _).1 h
    exact own
  · exact nomatch h

theorem checkBounds_mayStop {x : Part} {m : MemOp} (h : outcome (checkBounds w x m s) = outcome (.error e))
    (reads : loadedBytes i s = boundSlots w m s) (own : raises i s (.boundRange s.pc)) : MayStop i s e := by
  rw [outcome_error, checkBounds, bind_error] at h
  obtain stop | ⟨lower, -, h⟩ := h
  · exact mayStop_of_read (load_error.1 stop) (by simp [reads, boundSlots])
  obtain stop | ⟨upper, -, h⟩ := bind_error.1 h
  · exact mayStop_of_read (load_error.1 stop) (by simp [reads, boundSlots])
  dsimp only at h
  split at h
  · obtain rfl := (raise_eq_error _ _ _).1 h
    exact own
  · exact nomatch h

/-! ### Segment registers and the stack -/

theorem requireWhole_error {a : Word} {n : Nat} (h : requireWhole a n = .error e) : e = .refuse .accessPastTop := by
  unfold requireWhole at h
  split at h
  · exact (refuse_eq_error _ _).1 h
  · exact nomatch h

theorem loadPointer_mayStop {r : SReg} {m : MemOp} {dst : Part}
    (h : outcome (loadPointer w r m dst s) = outcome (.error e)) (reads : loadedBytes i s = pointerSlots w m s)
    (loads : r ∈ writtenSegments i) : MayStop i s e := by
  rw [outcome_error, loadPointer, bind_error] at h
  obtain stop | ⟨-, -, h⟩ := h
  · obtain rfl := requireWhole_error stop
    trivial
  obtain stop | ⟨off, -, h⟩ := bind_error.1 h
  · exact mayStop_of_read (load_error.1 stop) (by simp [reads, pointerSlots])
  obtain stop | ⟨sel, -, h⟩ := bind_error.1 h
  · exact mayStop_of_read (load_error.1 stop) (by simp [reads, pointerSlots])
  obtain stop | ⟨t, -, ends⟩ := bind_error.1 h
  · exact mayStop_of_loadSegment stop loads
  · exact nomatch ends

theorem popInto_mayStop {x : RM Part} (h : outcome (popInto w x s) = outcome (.error e))
    (reads : loadedBytes i s = stackTop w s) (writes : storedBytes i s = destBytes w x (s.popped w)) :
    MayStop i s e := by
  rw [outcome_error, popInto, bind_error] at h
  obtain stop | ⟨v, -, h⟩ := h
  · exact mayStop_of_top stop reads
  obtain stop | ⟨t, -, ends⟩ := bind_error.1 h
  · exact mayStop_of_writeLoc (t := s.popped w) rfl rfl stop writes
  · exact nomatch ends

theorem popSegment_mayStop {r : SReg} (h : outcome (popSegment r s) = outcome (.error e))
    (reads : loadedBytes i s = stackTop 32 s) (loads : r ∈ writtenSegments i) : MayStop i s e := by
  rw [outcome_error, popSegment, bind_error] at h
  obtain stop | ⟨v, -, h⟩ := h
  · exact mayStop_of_top stop reads
  obtain stop | ⟨t, -, ends⟩ := bind_error.1 h
  · exact mayStop_of_loadSegment stop loads
  · exact nomatch ends

theorem pushFrom_mayStop {x : Src w} (h : outcome (pushFrom x s) = outcome (.error e))
    (reads : srcBytes x s ⊆ loadedBytes i s) (writes : storedBytes i s = some (pushAddress w s, w / 8)) :
    MayStop i s e := by
  rw [outcome_error, pushFrom, bind_error] at h
  obtain stop | ⟨v, -, h⟩ := h
  · exact mayStop_of_readSrc stop reads
  obtain stop | ⟨t, -, ends⟩ := bind_error.1 h
  · exact mayStop_of_push stop writes
  · exact nomatch ends

theorem pushSegment_mayStop {r : SReg} (h : outcome (pushSegment r s) = outcome (.error e))
    (writes : storedBytes i s = some (pushAddress 32 s, 4)) : MayStop i s e := by
  rw [outcome_error, pushSegment, bind_error] at h
  obtain stop | ⟨t, -, ends⟩ := h
  · exact mayStop_of_push stop writes
  · exact nomatch ends

theorem pushFlags_mayStop (h : outcome (pushFlags w s) = outcome (.error e))
    (writes : storedBytes i s = some (pushAddress w s, w / 8)) : MayStop i s e := by
  rw [outcome_error, pushFlags, bind_error] at h
  obtain stop | ⟨t, -, ends⟩ := h
  · exact mayStop_of_push stop writes
  · exact nomatch ends

/-! ### Flags -/

/-- A word image has no bit 18, so `popfw` is never refused as setting AC. -/
theorem popFlags_mayStop (h : outcome (popFlags w s) = outcome (.error e))
    (reads : loadedBytes i s = stackTop w s) (own : i = .popfw ∧ w = 16 ∨ i = .popfl) : MayStop i s e := by
  rw [outcome_error, popFlags, bind_error] at h
  obtain stop | ⟨v, -, h⟩ := h
  · exact mayStop_of_top stop reads
  split at h
  · obtain rfl := (refuse_eq_error _ _).1 h
    exact own.imp_left And.left
  split at h
  next setsAC =>
    obtain rfl := (refuse_eq_error _ _).1 h
    obtain ⟨-, rfl⟩ | long := own
    · simp at setsAC
    · exact long
  next => exact nomatch h

theorem requireIopl_error (h : requireIopl s = .error e) :
    s.flags.iopl.toNat < s.cpl.toNat ∧ e = .fault (.generalProtection s.pc) := by
  unfold requireIopl at h
  split at h
  next => exact nomatch h
  next outer => exact ⟨Nat.lt_of_not_le outer, (raise_eq_error _ _ _).1 h⟩

theorem mayStop_of_requireIopl (h : requireIopl s = .error e) (own : i = .cli ∨ i = .sti) : MayStop i s e := by
  obtain ⟨outer, rfl⟩ := requireIopl_error h
  exact ⟨rfl, own, outer⟩

theorem clearInterrupt_mayStop (h : outcome (clearInterrupt s) = outcome (.error e)) : MayStop .cli s e := by
  rw [outcome_error, clearInterrupt, bind_error] at h
  obtain stop | ⟨-, -, ends⟩ := h
  · exact mayStop_of_requireIopl stop (.inl rfl)
  · exact nomatch ends

theorem setInterrupt_mayStop (h : outcome (setInterrupt s) = outcome (.error e)) : MayStop .sti s e := by
  rw [outcome_error, setInterrupt, bind_error] at h
  obtain stop | ⟨-, -, ends⟩ := h
  · exact mayStop_of_requireIopl stop (.inr rfl)
  · exact nomatch ends

theorem changeFlags_mayStop {f : Flags} (h : outcome (changeFlags f s) = outcome (.error e)) : MayStop i s e :=
  nomatch outcome_error.1 h

theorem loadFlagByte_mayStop (h : outcome (loadFlagByte s) = outcome (.error e)) : MayStop i s e :=
  nomatch outcome_error.1 h

/-! ### Ports (R120 to R126) -/

theorem portIn_mayStop {f : PortForm} (h : outcome (portIn w f s) = outcome (.error e))
    (port : isPortAccess i = true) : MayStop i s e := by
  rw [outcome_error, portIn, bind_error] at h
  obtain stop | ⟨-, -, h⟩ := h
  · exact mayStop_of_requirePort stop port
  obtain stop | ⟨r, -, ends⟩ := bind_error.1 h
  · obtain ⟨-, rfl⟩ := portRead_error.1 stop
    exact port
  · exact nomatch ends

theorem portOut_mayStop {f : PortForm} (h : outcome (portOut w f s) = outcome (.error e))
    (port : isPortAccess i = true) : MayStop i s e := by
  rw [outcome_error, portOut, bind_error] at h
  obtain stop | ⟨-, -, h⟩ := h
  · exact mayStop_of_requirePort stop port
  obtain stop | ⟨t, -, ends⟩ := bind_error.1 h
  · obtain ⟨-, rfl⟩ := portWrite_error.1 stop
    exact port
  · exact nomatch ends

/-- The store of `ins` comes after its check, which has admitted it. -/
theorem insOnce_mayStop (h : insOnce w s = .error e) (port : isPortAccess i = true)
    (writes : storedBytes i s = some (insAddress s, w / 8)) : MayStop i s e := by
  rw [insOnce, bind_error] at h
  obtain stop | ⟨-, -, h⟩ := h
  · exact mayStop_of_requirePort stop port
  obtain stop | ⟨-, -, h⟩ := bind_error.1 h
  · exact mayStop_of_write stop writes
  obtain stop | ⟨r, answered, h⟩ := bind_error.1 h
  · obtain ⟨-, rfl⟩ := portRead_error.1 stop
    exact port
  obtain ⟨-, rfl⟩ := portRead_ok.1 answered
  obtain stop | ⟨t, -, ends⟩ := bind_error.1 h
  · have barred : checkAccess .write (insAddress s) (w / 8) (s.afterPortRead w _) = .error e := store_error.1 stop
    rw [checkAccess_congr (t := s.afterPortRead w _) (s := s) rfl rfl] at barred
    exact mayStop_of_write barred writes
  · exact nomatch ends

theorem outsSegment_error {g : Option SReg} (h : outsSegment g s = .error e) :
    s.plat.segBase.ds ≠ s.plat.segBase.es ∧ e = .refuse .outsSegment := by
  unfold outsSegment at h
  split at h
  next => exact nomatch h
  next differ => exact ⟨differ, (refuse_eq_error _ _).1 h⟩

theorem outsOnce_mayStop {g : Option SReg} (h : outsOnce w g s = .error e) (port : isPortAccess i = true)
    (reads : loadedBytes i s = outsSlot w g s) : MayStop i s e := by
  rw [outsOnce, bind_error] at h
  obtain stop | ⟨r, through, h⟩ := h
  · obtain ⟨differ, rfl⟩ := outsSegment_error stop
    exact ⟨port, differ⟩
  obtain ⟨-, rfl⟩ := outsSegment_ok.1 through
  obtain stop | ⟨-, -, h⟩ := bind_error.1 h
  · exact mayStop_of_requirePort stop port
  obtain stop | ⟨v, -, h⟩ := bind_error.1 h
  · exact mayStop_of_read (load_error.1 stop) (by rw [reads]; exact List.mem_singleton.2 rfl)
  obtain stop | ⟨t, -, ends⟩ := bind_error.1 h
  · obtain ⟨-, rfl⟩ := portWrite_error.1 stop
    exact port
  · exact nomatch ends

theorem single_error {once : State → Except Stop State} : single once s = .error e ↔ once s = .error e := by
  simp [single, bind_error]

theorem repeated_error {once : State → Except Stop State} (h : repeated once s = .error e) :
    s.gpr.ecx ≠ 0#32 ∧ once s = .error e := by
  unfold repeated at h
  split at h
  next => exact nomatch h
  next nonzero =>
    obtain stop | ⟨t, -, ends⟩ := bind_error.1 h
    · exact ⟨nonzero, stop⟩
    · exact nomatch ends

theorem ins_mayStop (h : outcome (single (insOnce w) s) = outcome (.error e)) (port : isPortAccess i = true)
    (writes : storedBytes i s = some (insAddress s, w / 8)) : MayStop i s e :=
  insOnce_mayStop (single_error.1 (outcome_error.1 h)) port writes

theorem outs_mayStop {g : Option SReg} (h : outcome (single (outsOnce w g) s) = outcome (.error e))
    (port : isPortAccess i = true) (reads : loadedBytes i s = outsSlot w g s) : MayStop i s e :=
  outsOnce_mayStop (single_error.1 (outcome_error.1 h)) port reads

theorem repIns_mayStop (h : outcome (repeated (insOnce w) s) = outcome (.error e)) (port : isPortAccess i = true)
    (writes : storedBytes i s = if s.gpr.ecx = 0#32 then none else some (insAddress s, w / 8)) : MayStop i s e := by
  obtain ⟨nonzero, stop⟩ := repeated_error (outcome_error.1 h)
  exact insOnce_mayStop stop port (writes.trans (if_neg nonzero))

theorem repOuts_mayStop {g : Option SReg} (h : outcome (repeated (outsOnce w g) s) = outcome (.error e))
    (port : isPortAccess i = true) (reads : loadedBytes i s = if s.gpr.ecx = 0#32 then [] else outsSlot w g s) :
    MayStop i s e := by
  obtain ⟨nonzero, stop⟩ := repeated_error (outcome_error.1 h)
  exact outsOnce_mayStop stop port (reads.trans (if_neg nonzero))

/-! ### Jumps -/

theorem jump_mayStop {f : JumpForm} (h : outcome (jump f s) = outcome (.error e)) : MayStop i s e :=
  nomatch outcome_error.1 h

theorem jumpIf_mayStop {k : Cond} {f : JumpForm} (h : outcome (jumpIf k f s) = outcome (.error e)) :
    MayStop i s e := by
  rw [outcome_error, jumpIf] at h
  split at h <;> exact nomatch h

end

/-! ### Every instruction -/

/-- Whatever stops an instruction, its rows allow. -/
theorem exec_mayStop {i : Instr} {s : State} {e : Stop} (h : exec i s = outcome (.error e)) : MayStop i s e := by
  cases i with
  | ldsw _ _ | lesw _ _ | lfsw _ _ | lgsw _ _ | lssw _ _ | ldsl _ _ | lesl _ _ | lfsl _ _ | lgsl _ _ | lssl _ _ =>
    exact loadPointer_mayStop h rfl (List.mem_singleton.2 rfl)
  | popw _ => exact popInto_mayStop h rfl rfl
  | popl f =>
    cases f with
    | reg r => exact popInto_mayStop (x := .reg (Reg32.part r)) h rfl rfl
    | rm _ => exact popInto_mayStop h rfl rfl
    | sreg _ => exact popSegment_mayStop h rfl (List.mem_singleton.2 rfl)
  | pop _ => exact popSegment_mayStop h rfl (List.mem_singleton.2 rfl)
  | pushw _ => exact pushFrom_mayStop h (List.Subset.refl _) rfl
  | pushl f =>
    cases f with
    | reg _ | rm _ | imm8 _ | imm _ => exact pushFrom_mayStop h (List.Subset.refl _) rfl
    | sreg _ => exact pushSegment_mayStop h rfl
  | push _ => exact pushSegment_mayStop h rfl
  | inb _ | inw _ | inl _ => exact portIn_mayStop h rfl
  | outb _ | outw _ | outl _ => exact portOut_mayStop h rfl
  | insb | insw | insl => exact ins_mayStop h rfl rfl
  | rep_insb | rep_insw | rep_insl => exact repIns_mayStop h rfl rfl
  | outsb _ | outsw _ | outsl _ => exact outs_mayStop h rfl rfl
  | rep_outsb _ | rep_outsw _ | rep_outsl _ => exact repOuts_mayStop h rfl rfl
  | lahf => exact loadFlagByte_mayStop h
  | sahf | cmc | clc | stc | cld | std => exact changeFlags_mayStop h
  | cli => exact clearInterrupt_mayStop h
  | sti => exact setInterrupt_mayStop h
  | popfw => exact popFlags_mayStop h rfl (.inl ⟨rfl, rfl⟩)
  | popfl => exact popFlags_mayStop h rfl (.inr rfl)
  | pushfw | pushfl => exact pushFlags_mayStop h rfl
  | addb _ | orb _ | adcb _ | sbbb _ | andb _ | subb _ | xorb _ | addw _ | orw _ | adcw _ | sbbw _ | andw _ | subw _
  | xorw _ | addl _ | orl _ | adcl _ | sbbl _ | andl _ | subl _ | xorl _ => exact update_mayStop h rfl rfl
  | cmpb _ | cmpw _ | cmpl _ | testb _ | testw _ | testl _ => exact compare_mayStop h rfl
  | incb _ | decb _ | notb _ | negb _ | incw _ | decw _ | notw _ | negw _ | incl _ | decl _ | notl _ | negl _ =>
    exact modify_mayStop h rfl rfl
  | salb _ | shlb _ | shrb _ | sarb _ | salw _ | shlw _ | shrw _ | sarw _ | sall _ | shll _ | shrl _ | sarl _ =>
    exact shift_mayStop h rfl rfl
  | shldw _ | shldl _ | shrdw _ | shrdl _ => exact doubleShift_mayStop h rfl rfl
  | mulb _ | mulw _ | mull _ | mul _ => exact multiply_mayStop h rfl
  | imulb _ => exact signedMultiply_mayStop h rfl
  | imulw _ | imull _ | imul _ => exact imulForm_mayStop h rfl
  | divb m => exact divide_mayStop h rfl ⟨rfl, .inl ⟨m, rfl⟩⟩
  | divw m => exact divide_mayStop h rfl ⟨rfl, .inr (.inl ⟨m, rfl⟩)⟩
  | divl m => exact divide_mayStop h rfl ⟨rfl, .inr (.inr (.inl ⟨m, rfl⟩))⟩
  | div m => exact divide_mayStop h rfl ⟨rfl, .inr (.inr (.inr ⟨m, rfl⟩))⟩
  | boundw x m => exact checkBounds_mayStop h rfl ⟨rfl, .inl ⟨x, m, rfl⟩⟩
  | boundl x m => exact checkBounds_mayStop h rfl ⟨rfl, .inr ⟨x, m, rfl⟩⟩
  | jmp _ => exact jump_mayStop h
  | jo _ | jno _ | jb _ | jc _ | jnae _ | jae _ | jnb _ | jnc _ | je _ | jz _ | jne _ | jnz _ | jbe _ | jna _ | ja _
  | jnbe _ | js _ | jns _ | jp _ | jpe _ | jnp _ | jpo _ | jl _ | jnge _ | jge _ | jnl _ | jle _ | jng _ | jg _
  | jnle _ => exact jumpIf_mayStop h

/-- Settles O14: the faults among the stops of `exec_mayStop`. -/
theorem faultsComeFromTheirInstructions : Obligations.FaultsComeFromTheirInstructions := by
  unfold Obligations.FaultsComeFromTheirInstructions
  exact fun _ _ f h => exec_mayStop (e := .fault f) h

/-- Settles O15: the refusals among them. -/
theorem refusalsComeFromSituations : Obligations.RefusalsComeFromSituations := by
  unfold Obligations.RefusalsComeFromSituations
  exact fun _ _ r h => exec_mayStop (e := .refuse r) h

end Sys2Proof.Machine
end

section
/-! PROOFS of the statements about double shifts (R195, R196) and about a jump after `cmp` (R165, R250). -/

namespace Sys2Proof.Machine

/-! ### What a double shift does, whatever it computes (R190) -/

/-- With the bits shifted in given, a double shift is a shift. -/
theorem doubleShift_eq_shift {w : Nat} (op : BitVec w → BitVec w → Nat → State → Effect w)
    (x : Count × Part × RM Part) (s : State) :
    doubleShift op x s = shift (fun d => op d (readPart w x.2.1 s)) (x.1, x.2.2) s := rfl

/-- An operand of a whole number of bytes: within the operand's width, what the operation computes is what the claim
must hold of. -/
theorem doubleShifts_of_doubleShift {F : Type} {w : Nat} {operands : F → Count × Part × RM Part} {mk : F → Instr}
    {op : BitVec w → BitVec w → Nat → State → Effect w} {claim : BitVec w → BitVec w → Nat → BitVec w → Flags → Prop}
    (bytes : 8 * (w / 8) = w) (fits : ∀ f, operandFits w (operands f).2.2)
    (meaning : ∀ f s, exec (mk f) s = outcome (doubleShift op (operands f) s))
    (correct : ∀ d x c s, c ≤ w → resultFlags (op d x c s).result (op d x c s).flags ∧
      claim d x c (op d x c s).result (op d x c s).flags) : doubleShifts w operands mk claim := by
  refine ⟨fun f s d c reads count => ⟨fun zero => ?unshifted, fun nonzero writable => ?shifted⟩,
    fun f s barred => ?faults⟩
  case unshifted =>
    rw [← countValue_eq_mod] at count
    refine ⟨s.advance, ?_, rfl, rfl, rfl, rfl⟩
    rw [meaning, doubleShift_eq_shift, shift_of_count_zero reads (count.symm.trans zero), outcome_ok]
  case shifted =>
    rw [← countValue_eq_mod] at count
    subst count
    obtain ⟨t, completes, holds, flags, next⟩ :=
      shift_completes (op := fun d => op d (readPart w (operands f).2.1 s))
        (x := ((operands f).1, (operands f).2.2)) bytes (fits f) reads nonzero writable
    refine ⟨t, _, ?_, holds, next, fun within => flags ▸ correct d _ _ s within⟩
    rw [meaning, doubleShift_eq_shift, completes, outcome_ok]
  case faults =>
    rw [← countValue_eq_mod] at barred
    exact (meaning f s).trans ((outcome_fault _ _).2 (shift_of_denied (x := ((operands f).1, (operands f).2.2)) barred))

/-! ### `shld`, `shrd` (R195, R196) -/

section
variable {w c : Nat} (within : c ≤ w) (d x : BitVec w) (s : State)
include within

theorem shldEffect_of_le : shldEffect d x c s =
    { result := BitVec.ofNat w (d.toNat * 2 ^ c + x.toNat / 2 ^ (w - c)), used := 7
      flags := dshiftFlags (BitVec.ofNat w (d.toNat * 2 ^ c + x.toNat / 2 ^ (w - c))) (d.getLsbD (w - c)) s } :=
  if_neg (Nat.not_lt.2 within)

theorem shrdEffect_of_le : shrdEffect d x c s =
    { result := BitVec.ofNat w (d.toNat / 2 ^ c + x.toNat * 2 ^ (w - c)), used := 7
      flags := dshiftFlags (BitVec.ofNat w (d.toNat / 2 ^ c + x.toNat * 2 ^ (w - c))) (d.getLsbD (c - 1)) s } :=
  if_neg (Nat.not_lt.2 within)

theorem shldEffect_doubleLeft : resultFlags (shldEffect d x c s).result (shldEffect d x c s).flags ∧
    doubleLeft w d x c (shldEffect d x c s).result (shldEffect d x c s).flags := by
  rw [shldEffect_of_le within]
  exact ⟨resultFlags_byResult _ s.flags, BitVec.toNat_ofNat .., getLsbD_iff_div_mod d (w - c)⟩

theorem shrdEffect_doubleRight : resultFlags (shrdEffect d x c s).result (shrdEffect d x c s).flags ∧
    doubleRight w d x c (shrdEffect d x c s).result (shrdEffect d x c s).flags := by
  rw [shrdEffect_of_le within]
  exact ⟨resultFlags_byResult _ s.flags, BitVec.toNat_ofNat .., getLsbD_iff_div_mod d (c - 1)⟩

end

/-- Settles O33: both run `doubleShift`, which computes the joined value within the operand's width. -/
theorem doubleShiftResult : Obligations.DoubleShiftResult := by
  unfold Obligations.DoubleShiftResult
  have half := dshiftOperands_fits Reg16.part_fits
  have long := dshiftOperands_fits Reg32.part_fits
  refine ⟨⟨?shldw, ?shldl⟩, ?shrdw, ?shrdl⟩
  case shldw =>
    exact doubleShifts_of_doubleShift rfl half (fun _ _ => rfl) fun d x _ s h => shldEffect_doubleLeft h d x s
  case shldl =>
    exact doubleShifts_of_doubleShift rfl long (fun _ _ => rfl) fun d x _ s h => shldEffect_doubleLeft h d x s
  case shrdw =>
    exact doubleShifts_of_doubleShift rfl half (fun _ _ => rfl) fun d x _ s h => shrdEffect_doubleRight h d x s
  case shrdl =>
    exact doubleShifts_of_doubleShift rfl long (fun _ _ => rfl) fun d x _ s h => shrdEffect_doubleRight h d x s

/-! ### Rotates -/

section
variable {w c : Nat} (within : c ≤ w) (d : BitVec w)
include within

/-- The two pieces of a rotated value meet in no bit, so their sum is their disjunction. -/
theorem ofNat_pieces : BitVec.ofNat w (d.toNat * 2 ^ c + d.toNat / 2 ^ (w - c)) = d <<< c ||| d >>> (w - c) := by
  have low : d.toNat / 2 ^ (w - c) < 2 ^ c := by
    refine Nat.div_lt_of_lt_mul ?_
    rw [← pow_add, Nat.sub_add_cancel within]
    exact d.isLt
  have lowFits : d.toNat / 2 ^ (w - c) < 2 ^ w := low.trans_le (Nat.pow_le_pow_right (by decide) within)
  apply BitVec.eq_of_toNat_eq
  rw [BitVec.toNat_ofNat, ← Nat.shiftLeft_eq, Nat.shiftLeft_add_eq_or_of_lt low, Nat.or_mod_two_pow,
    Nat.mod_eq_of_lt lowFits, BitVec.toNat_or, BitVec.toNat_shiftLeft, BitVec.toNat_ushiftRight,
    Nat.shiftRight_eq_div_pow]

theorem rotateLeft_eq_or : d.rotateLeft c = d <<< c ||| d >>> (w - c) := by
  rw [BitVec.rotateLeft_def]
  rcases Nat.lt_or_eq_of_le within with below | rfl
  · rw [Nat.mod_eq_of_lt below]
  · simp [BitVec.ushiftRight_eq_zero]

theorem rotateRight_eq_or : d.rotateRight c = d >>> c ||| d <<< (w - c) := by
  rw [BitVec.rotateRight_def]
  rcases Nat.lt_or_eq_of_le within with below | rfl
  · rw [Nat.mod_eq_of_lt below]
  · simp [BitVec.ushiftRight_eq_zero]

theorem shldEffect_rotateLeft (s : State) : (shldEffect d d c s).result = d.rotateLeft c := by
  rw [shldEffect_of_le within, rotateLeft_eq_or within]
  exact ofNat_pieces within d

theorem shrdEffect_rotateRight (s : State) : (shrdEffect d d c s).result = d.rotateRight c := by
  rw [shrdEffect_of_le within, rotateRight_eq_or within, BitVec.or_comm, Nat.add_comm]
  have pieces := ofNat_pieces (Nat.sub_le w c) d
  rwa [Nat.sub_sub_self within] at pieces

end

/-- A double shift of one register: a count of 0 leaves it, as the rotate by 0 does. -/
theorem doubleShift_register {w : Nat} {op : BitVec w → BitVec w → Nat → State → Effect w} {p : Part} {s : State}
    {b : Byte} {rotated : BitVec w} (bytes : 8 * (w / 8) = w) (fits : p.lo + w ≤ 32)
    (zero : b.toNat % 32 = 0 → readPart w p s = rotated)
    (nonzero : (op (readPart w p s) (readPart w p s) (b.toNat % 32) s).result = rotated) :
    ∃ t, outcome (doubleShift op (.imm b, p, .reg p) s) = .next t ∧ readPart w p t = rotated := by
  rw [doubleShift_eq_shift]
  by_cases count : b.toNat % 32 = 0
  · exact ⟨s.advance, (outcome_next _ _).2 (shift_of_count_zero rfl count), zero count⟩
  · have inRegister : operandFits w (.reg p) := by rintro _ ⟨⟩; exact fits
    obtain ⟨t, completes, holds, -⟩ := shift_completes (op := fun d => op d (readPart w p s))
      (x := (.imm b, .reg p)) (s := s) bytes inRegister rfl count trivial
    exact ⟨t, (outcome_next _ _).2 completes, holds.trans nonzero⟩

theorem rotateLeft_zero {w c : Nat} (d : BitVec w) (zero : c = 0) : d = d.rotateLeft c := by
  simp [zero, rotateLeft_eq_or (Nat.zero_le w), BitVec.ushiftRight_eq_zero]

theorem rotateRight_zero {w c : Nat} (d : BitVec w) (zero : c = 0) : d = d.rotateRight c := by
  simp [zero, rotateRight_eq_or (Nat.zero_le w)]

/-- Settles O34: with one value twice the joined value is the rotated one. -/
theorem doubleShiftOfOneRegisterRotates : Obligations.DoubleShiftOfOneRegisterRotates := by
  unfold Obligations.DoubleShiftOfOneRegisterRotates
  intro s c
  have short : c.toNat % 32 ≤ 32 := (Nat.mod_lt _ (by decide)).le
  refine ⟨fun x => ?shldl, fun x => ?shrdl, fun within x => ⟨?shldw, ?shrdw⟩⟩
  case shldl =>
    obtain ⟨t, completes, rotated⟩ := doubleShift_register (s := s) rfl (Reg32.part_fits x) (rotateLeft_zero _)
      (shldEffect_rotateLeft short _ s)
    exact ⟨t, completes, by simpa using rotated⟩
  case shrdl =>
    obtain ⟨t, completes, rotated⟩ := doubleShift_register (s := s) rfl (Reg32.part_fits x) (rotateRight_zero _)
      (shrdEffect_rotateRight short _ s)
    exact ⟨t, completes, by simpa using rotated⟩
  case shldw =>
    exact doubleShift_register (s := s) rfl (Reg16.part_fits x) (rotateLeft_zero _) (shldEffect_rotateLeft within _ s)
  case shrdw =>
    exact doubleShift_register (s := s) rfl (Reg16.part_fits x) (rotateRight_zero _) (shrdEffect_rotateRight within _ s)

/-! ### Comparisons read off the flags (R165, R250) -/

section
variable {w : Nat} {d v : BitVec w} {f : Flags}

theorem carry_iff_below (h : differenceBorrow d v false f) : f.cf = true ↔ d.toNat < v.toNat := h

theorem zero_iff_eq (h : differenceFlags d v false (d - v) f) : f.zf = true ↔ d = v := by
  obtain ⟨⟨-, zero, -⟩, -⟩ := h
  rw [zero, ← BitVec.toNat_zero (w := w), ← BitVec.toNat_eq]
  exact sub_eq_zero

/-- The sign of a difference is wrong exactly when it overflows. -/
theorem sign_ne_overflow_iff_less (pos : 0 < w) (h : differenceFlags d v false (d - v) f) :
    (f.sf != f.of) = true ↔ d.toInt < v.toInt := by
  obtain ⟨⟨sign, -⟩, overflow, -⟩ := h
  obtain ⟨M, half⟩ : 2 ∣ 2 ^ w := dvd_pow_self 2 pos.ne'
  have wraps := toNat_of_isSum (isSum_of_isDifference (isDifference_sub d v))
  have rangeD := d.isLt
  have rangeV := v.isLt
  have rangeR := (d - v).isLt
  rw [bne_iff_ne, ne_eq, Bool.eq_iff_iff, sign, overflow]
  simp only [BitVec.toInt_eq_toNat_cond, half, Bool.toNat_false] at wraps rangeD rangeV rangeR ⊢
  split_ifs <;> omega

end

/-- A conditional jump whose condition holds exactly when `P` does. -/
theorem takenExactly_of_jumpIf {mk : JumpForm → Instr} {k : Cond} {t : State} {P : Prop}
    (meaning : ∀ j, exec (mk j) t = outcome (jumpIf k j t)) (means : k.holds t.flags = true ↔ P) :
    (P → taken mk t) ∧ (¬ P → fallsThrough mk t) := by
  refine ⟨fun h j => ?takes, fun h j => ?falls⟩
  case takes =>
    rw [meaning, exec_jmp, outcome_next, jumpIf_ok, if_pos (means.2 h)]
  case falls =>
    rw [meaning]
    exact ⟨t.advance, (outcome_next _ _).2 (jumpIf_ok.2 (if_neg (mt means.1 h)).symm), rfl⟩

section
variable {w : Nat} {d v : BitVec w} {t : State} (below : t.flags.cf = true ↔ d.toNat < v.toNat)
  (equal : t.flags.zf = true ↔ d = v)
include below equal

theorem jumps_unsigned :
    ∀ c ∈ unsignedComparisons d v, (c.2 → taken c.1 t) ∧ (¬ c.2 → fallsThrough c.1 t) := by
  have notBelow : Cond.holds .ae t.flags = true ↔ v.toNat ≤ d.toNat := by simp [Cond.holds, below, ← Bool.not_eq_true]
  have belowOrEqual : Cond.holds .be t.flags = true ↔ d.toNat ≤ v.toNat := by
    simp [Cond.holds, below, equal, BitVec.toNat_eq, Nat.le_iff_lt_or_eq]
  have above : Cond.holds .a t.flags = true ↔ v.toNat < d.toNat := by
    simp [Cond.holds, below, equal, BitVec.toNat_eq, ← Bool.not_eq_true]
    omega
  have different : Cond.holds .ne t.flags = true ↔ d ≠ v := by simp [Cond.holds, equal, ← Bool.not_eq_true]
  simp only [unsignedComparisons, List.forall_mem_cons]
  refine ⟨?ja, ?jnbe, ?jae, ?jnb, ?jnc, ?jb, ?jc, ?jnae, ?jbe, ?jna, ?je, ?jz, ?jne, ?jnz, List.forall_mem_nil _⟩
  case ja | jnbe => exact takenExactly_of_jumpIf (fun _ => rfl) above
  case jae | jnb | jnc => exact takenExactly_of_jumpIf (fun _ => rfl) notBelow
  case jb | jc | jnae => exact takenExactly_of_jumpIf (k := .b) (fun _ => rfl) below
  case jbe | jna => exact takenExactly_of_jumpIf (fun _ => rfl) belowOrEqual
  case je | jz => exact takenExactly_of_jumpIf (k := .e) (fun _ => rfl) equal
  case jne | jnz => exact takenExactly_of_jumpIf (fun _ => rfl) different

end

section
variable {w : Nat} {d v : BitVec w} {t : State} (less : (t.flags.sf != t.flags.of) = true ↔ d.toInt < v.toInt)
  (equal : t.flags.zf = true ↔ d = v)
include less equal

theorem jumps_signed :
    ∀ c ∈ signedComparisons d v, (c.2 → taken c.1 t) ∧ (¬ c.2 → fallsThrough c.1 t) := by
  have notLess : Cond.holds .ge t.flags = true ↔ v.toInt ≤ d.toInt := by
    rw [← Int.not_lt, ← less]
    simp [Cond.holds]
  have lessOrEqual : Cond.holds .le t.flags = true ↔ d.toInt ≤ v.toInt := by
    rw [Int.le_iff_lt_or_eq, BitVec.toInt_inj, ← less]
    simp [Cond.holds, equal, or_comm]
  have greater : Cond.holds .g t.flags = true ↔ v.toInt < d.toInt := by
    rw [← Int.not_le, ← lessOrEqual]
    simp [Cond.holds]
  simp only [signedComparisons, List.forall_mem_cons]
  refine ⟨?jg, ?jnle, ?jge, ?jnl, ?jl, ?jnge, ?jle, ?jng, List.forall_mem_nil _⟩
  case jg | jnle => exact takenExactly_of_jumpIf (fun _ => rfl) greater
  case jge | jnl => exact takenExactly_of_jumpIf (fun _ => rfl) notLess
  case jl | jnge => exact takenExactly_of_jumpIf (k := .l) (fun _ => rfl) less
  case jle | jng => exact takenExactly_of_jumpIf (fun _ => rfl) lessOrEqual

end

theorem comparesFor_of_compare {F : Type} {w : Nat} {operands : F → Src w × RM Part} {mk : F → Instr} (pos : 0 < w)
    (meaning : ∀ f s, exec (mk f) s = outcome (compare subEffect (operands f) s)) : comparesFor w operands mk := by
  intro f s v d readsSource reads
  have completes := (compare_ok (op := subEffect)).2 ⟨v, d, readsSource, reads, rfl⟩
  refine ⟨_, (meaning f s).trans ((outcome_next _ _).2 completes), fun c mem => ?_⟩
  obtain ⟨difference, borrow⟩ := subEffect_compares pos d v s
  have equal := zero_iff_eq difference
  obtain unsigned | signed := List.mem_append.1 mem
  · exact jumps_unsigned (carry_iff_below borrow) equal c unsigned
  · exact jumps_signed (sign_ne_overflow_iff_less pos difference) equal c signed

/-- Settles O40: `cmp` leaves the flags of the difference, and each condition reads its relation off them. -/
theorem compareThenJump : Obligations.CompareThenJump := by
  unfold Obligations.CompareThenJump
  refine ⟨?byte, ?half, ?long⟩
  case byte | half | long => exact comparesFor_of_compare (by decide) fun _ _ => rfl

end Sys2Proof.Machine
end

section
/-! PROOFS of the statements about full-pointer loads and the stack: `lds` to `lss`, `pop`, `popf`, and a `pop` after a
`push` (R100 to R107, R142); and of the order of exceptions (R265). -/

namespace Sys2Proof.Machine

/-! ### Reads -/

theorem top_of_denied {w : Nat} {s : State} (h : denied .read (s.linear .ss s.gpr.esp) (w / 8) s) :
    top w s = .error (.fault (.memoryAccess s.pc)) :=
  load_error.2 (checkAccess_of_denied h)

/-- A read below the top either is not admitted or answers. -/
theorem load_of_fits {w : Nat} {a : Word} {s : State} (fits : a.toNat + w / 8 ≤ addressSpace) :
    load w a s = .error (.fault (.memoryAccess s.pc)) ∨ ∃ v, load w a s = .ok v := by
  cases admitted : memAdmit s a.toNat (w / 8) .read with
  | false => exact .inl (load_error.2 (checkAccess_of_denied ⟨fits, admitted⟩))
  | true => exact .inr ⟨_, load_eq ⟨fits, admitted⟩⟩

/-! ### Full pointers (R100) -/

section
variable {w : Nat} {r : SReg} {m : MemOp} {dst : Part} {s : State}
  (whole : (operandAddress s m).toNat + pointerBytes w ≤ addressSpace)
include whole

theorem loadPointer_of_unloadable {off : BitVec w} {sel : Half} (readsOffset : load w (operandAddress s m) s = .ok off)
    (readsSelector : load 16 (operandAddress s m + itemStep w) s = .ok sel)
    (unloadable : selectorLoadable s r sel = false) :
    loadPointer w r m dst s = .error (.fault (.segmentLoad sel s.pc)) := by
  have stops : loadSegment r sel s = _ := loadSegment_error.2 ⟨unloadable, rfl⟩
  refine bind_error.2 (.inr ⟨(), requireWhole_ok.2 whole, ?_⟩)
  simp [readsOffset, readsSelector, stops]

theorem loadPointer_of_denied (h : denied .read (operandAddress s m) (w / 8) s ∨
    denied .read (operandAddress s m + itemStep w) 2 s) :
    loadPointer w r m dst s = .error (.fault (.memoryAccess s.pc)) := by
  have offsetFits : (operandAddress s m).toNat + w / 8 ≤ addressSpace :=
    (Nat.add_le_add_left (Nat.le_add_right _ 2) _).trans whole
  refine bind_error.2 (.inr ⟨(), requireWhole_ok.2 whole, bind_error.2 ?_⟩)
  obtain barred | barred := h
  · exact .inl (load_error.2 (checkAccess_of_denied barred))
  · have stops : load 16 (operandAddress s m + itemStep w) s = _ := load_error.2 (checkAccess_of_denied barred)
    exact (load_of_fits offsetFits).imp_right fun ⟨off, reads⟩ => ⟨off, reads, bind_error.2 (.inl stops)⟩

end

theorem loadsPointer_of_loadPointer {ρ : Type} {w : Nat} {part : ρ → Part} {mk : MemOp → ρ → Instr} {r : SReg}
    (fits : ∀ x, (part x).lo + w ≤ 32)
    (meaning : ∀ m x s, exec (mk m x) s = outcome (loadPointer w r m (part x) s)) : loadsPointer w part mk r := by
  intro m x s whole
  refine ⟨fun off sel readsOffset readsSelector => ⟨fun loadable => ?completes, fun unloadable => ?refuses⟩,
    fun barred => ?faults⟩
  case completes =>
    exact ⟨_, (meaning m x s).trans
        ((outcome_next _ _).2 (loadPointer_ok.2 ⟨off, sel, whole, readsOffset, readsSelector, loadable, rfl⟩)),
      readPart_writePart (part x) off (s.setSeg r sel) (fits x), SegRegs.get_set_same _ r sel, rfl⟩
  case refuses =>
    exact (meaning m x s).trans
      ((outcome_fault _ _).2 (loadPointer_of_unloadable whole readsOffset readsSelector unloadable))
  case faults => exact (meaning m x s).trans ((outcome_fault _ _).2 (loadPointer_of_denied whole barred))

/-- Settles O41: each of the ten runs `loadPointer`, which loads both registers or neither. -/
theorem loadPointerResult : Obligations.LoadPointerResult := by
  unfold Obligations.LoadPointerResult
  refine ⟨⟨?ldsw, ?lesw, ?lfsw, ?lgsw, ?lssw⟩, ?ldsl, ?lesl, ?lfsl, ?lgsl, ?lssl⟩
  case ldsw | lesw | lfsw | lgsw | lssw => exact loadsPointer_of_loadPointer Reg16.part_fits fun _ _ _ => rfl
  case ldsl | lesl | lfsl | lgsl | lssl => exact loadsPointer_of_loadPointer Reg32.part_fits fun _ _ _ => rfl

/-! ### `pop` (R106, R107) -/

/-- A written operand holds its value; where `pc` goes next, and register bits beside the operand, are unchanged. -/
theorem writeLoc_holds {w : Nat} (bytes : 8 * (w / 8) = w) (v : BitVec w) {x : RM Part} {s : State}
    (fits : operandFits w x) (writable : (locate s x).writable w s) :
    ∃ u, writeLoc (locate s x) v s = .ok u ∧ (locate s x).holds v u ∧ u.pcNext = s.pcNext ∧
      ∀ r b, outsideParts (destParts w x) r b → (u.gpr.get r).getLsbD b = (s.gpr.get r).getLsbD b := by
  cases x with
  | reg p =>
    exact ⟨_, rfl, readPart_writePart p v s (fits p rfl), rfl, fun _ _ => writePart_getLsbD_outside p v s (fits p rfl)⟩
  | mem m =>
    exact ⟨_, store_eq writable, Memory.readLE_writeLE_item s.mem _ v bytes, rfl, fun _ _ _ => rfl⟩

theorem popInto_of_denied {w : Nat} {x : RM Part} {s : State}
    (h : denied .read (s.linear .ss s.gpr.esp) (w / 8) s ∨
      s.canRead (s.linear .ss s.gpr.esp) (w / 8) ∧ operandDenied .write w x (s.popped w)) :
    popInto w x s = .error (.fault (.memoryAccess s.pc)) := by
  obtain barred | ⟨readable, m, rfl, barred⟩ := h
  · exact bind_error.2 (.inl (top_of_denied barred))
  · exact bind_error.2 (.inr ⟨_, load_eq readable,
      bind_error.2 (.inl (store_error.2 (checkAccess_of_denied barred)))⟩)

theorem pops_of_popInto {F : Type} {w : Nat} {operand : F → RM Part} {mk : F → Instr} (bytes : 8 * (w / 8) = w)
    (fits : ∀ f, operandFits w (operand f)) (meaning : ∀ f s, exec (mk f) s = outcome (popInto w (operand f) s)) :
    pops w operand mk := by
  refine ⟨fun f s v reads writable => ?completes, fun f s barred => ?faults⟩
  case completes =>
    obtain ⟨u, writes, holds, next, beside⟩ := writeLoc_holds (s := s.popped w) bytes v (fits f) writable
    have completes := popInto_ok.2 ⟨v, u, reads, writes, rfl⟩
    refine ⟨u.advance, (meaning f s).trans ((outcome_next _ _).2 completes), ?_, next, fun b => beside .esp b⟩
    exact holds
  case faults => exact (meaning f s).trans ((outcome_fault _ _).2 (popInto_of_denied barred))

theorem popSegment_of_unloadable {r : SReg} {s : State} {v : Word} (reads : top 32 s = .ok v)
    (unloadable : selectorLoadable s r (v.setWidth 16) = false) :
    popSegment r s = .error (.fault (.segmentLoad (v.setWidth 16) s.pc)) :=
  bind_error.2 (.inr ⟨v, reads, bind_error.2 (.inl (loadSegment_error.2 ⟨unloadable, rfl⟩))⟩)

theorem popSegment_of_denied {r : SReg} {s : State} (h : denied .read (s.linear .ss s.gpr.esp) 4 s) :
    popSegment r s = .error (.fault (.memoryAccess s.pc)) :=
  bind_error.2 (.inl (top_of_denied h))

theorem popsSegment_of_popSegment {mk : SReg → Instr} (meaning : ∀ r s, exec (mk r) s = outcome (popSegment r s)) :
    popsSegment mk := by
  refine ⟨fun r s v reads => ⟨fun loadable => ?completes, fun unloadable => ?refuses⟩, fun r s barred => ?faults⟩
  case completes =>
    exact ⟨_, (meaning r s).trans ((outcome_next _ _).2 (popSegment_ok.2 ⟨v, reads, loadable, rfl⟩)),
      SegRegs.get_set_same _ r _, rfl, rfl⟩
  case refuses => exact (meaning r s).trans ((outcome_fault _ _).2 (popSegment_of_unloadable reads unloadable))
  case faults => exact (meaning r s).trans ((outcome_fault _ _).2 (popSegment_of_denied barred))

/-- A null selector is not loadable into `%ss` (R105). -/
theorem selectorLoadable_ss_of_null {s : State} {sel : Half} (null : sel.extractLsb' 2 14 = 0#14) :
    selectorLoadable s .ss sel = false := by
  simp [selectorLoadable, null]

theorem extractLsb'_setWidth_half (v : Word) : (v.setWidth 16).extractLsb' 2 14 = v.extractLsb' 2 14 := by
  apply BitVec.eq_of_getLsbD_eq
  intro i hi
  have low : 2 + i < 16 := by omega
  simp [low]

/-- Settles O42: each form runs `popInto` its operand, or `popSegment`. -/
theorem popResult : Obligations.PopResult := by
  unfold Obligations.PopResult
  refine ⟨?word, ?longRM, ?longReg, ?longSegment, ?segment, fun s v reads null => ?nullStack⟩
  case word => exact pops_of_popInto rfl popOperand_fits fun _ _ => rfl
  case longRM => exact pops_of_popInto rfl (operandFits_map Reg32.part_fits) fun _ _ => rfl
  case longReg => exact pops_of_popInto rfl (fun r => operandFits_map Reg32.part_fits (.reg r)) fun _ _ => rfl
  case longSegment | segment => exact popsSegment_of_popSegment fun _ _ => rfl
  case nullStack =>
    rw [← extractLsb'_setWidth_half] at null
    exact (outcome_fault _ _).2 (popSegment_of_unloadable reads (selectorLoadable_ss_of_null null))

/-! ### A `pop` after a `push` -/

section
variable {w : Nat} {v : BitVec w} {s t : State} (gpr : t.gpr = s.gpr.set .esp (s.gpr.esp - itemStep w))
include gpr

/-- The item a push stored is at the top of the stack. -/
theorem top_after_push (bytes : 8 * (w / 8) = w) (plat : t.plat = s.plat)
    (mem : t.mem = s.mem.writeLE (pushAddress w s).toNat v.toNat (w / 8))
    (readable : s.canRead (pushAddress w s) (w / 8)) : top w t = .ok v := by
  have slot : t.linear .ss t.gpr.esp = pushAddress w s := by rw [State.linear, plat, gpr]; rfl
  have readable : t.canRead (pushAddress w s) (w / 8) := (canRead_congr plat _ _).2 readable
  rw [top, slot, load_eq readable, mem, Memory.readLE_writeLE_item _ _ _ bytes, BitVec.ofNat_toNat, BitVec.setWidth_eq]

theorem popped_gpr_after_push : (t.popped w).gpr = s.gpr := by
  have back : t.gpr.esp + itemStep w = s.gpr.get .esp := by
    rw [gpr]
    exact BitVec.sub_add_cancel _ _
  rw [State.popped, back, State.setReg, gpr, Gpr.set_set, Gpr.set_get]

end

/-- What a push with its slot writable leaves: the item in the slot, `%esp` at it, the flags as they were. -/
theorem push_leaves {w : Nat} (v : BitVec w) {s : State} (writable : s.canWrite (pushAddress w s) (w / 8)) :
    ∃ u, push v s = .ok u ∧ u.gpr = s.gpr.set .esp (s.gpr.esp - itemStep w) ∧ u.plat = s.plat ∧
      u.mem = s.mem.writeLE (pushAddress w s).toNat v.toNat (w / 8) ∧ u.flags = s.flags :=
  ⟨_, push_ok.2 ⟨writable, rfl⟩, rfl, rfl, rfl, rfl⟩

/-- Settles O44: the popped item is the pushed one, and it is popped into the registers of the first state. -/
theorem popUndoesPush : Obligations.PopUndoesPush := by
  unfold Obligations.PopUndoesPush
  intro s x y notEsp writable readable
  obtain ⟨u, pushes, gpr, plat, mem, -⟩ := push_leaves (w := 32) (s.gpr.get x) writable
  have value : readSrc (.rm (.reg (Reg32.part x))) s = .ok (s.gpr.get x) := congrArg _ (readPart_reg32 x s)
  have pushed := pushFrom_ok.2 ⟨_, u, value, pushes, rfl⟩
  have popped := (popInto_ok (x := .reg (Reg32.part y))).2
    ⟨_, _, top_after_push (t := u.advance) gpr rfl plat mem readable, rfl, rfl⟩
  have registers : (writePart (Reg32.part y) (s.gpr.get x) (u.advance.popped 32)).advance.gpr =
      s.gpr.set y (s.gpr.get x) := by
    rw [writePart_reg32, State.advance_gpr, State.setReg, popped_gpr_after_push (t := u.advance) gpr]
  refine ⟨_, _, (outcome_next _ _).2 pushed, (outcome_next _ _).2 popped, ?value, ?stackPointer, fun r other => ?other⟩
  case value => rw [registers, Gpr.get_set_same]
  case stackPointer => rw [Gpr.esp_eq_get, registers, Gpr.get_set_other _ _ notEsp.symm, ← Gpr.esp_eq_get]
  case other => rw [registers, Gpr.get_set_other _ _ other]

/-! ### `popf` (R142) -/

theorem popsFlags_of_popFlags {w : Nat} {i : Instr} (meaning : ∀ s, exec i s = outcome (popFlags w s)) :
    popsFlags w i := by
  refine ⟨fun s barred => ?faults, fun s v reads noTF noAC => ?completes⟩
  case faults => exact (meaning s).trans ((outcome_fault _ _).2 (bind_error.2 (.inl (top_of_denied barred))))
  case completes =>
    exact ⟨_, (meaning s).trans ((outcome_next _ _).2 (popFlags_ok.2 ⟨v, reads, noTF, noAC, rfl⟩)), rfl, rfl, rfl, rfl,
      rfl, rfl, rfl, rfl, rfl, rfl, fun inner => if_pos inner, fun outer => if_neg outer, fun inner => if_pos inner,
      fun outer => if_neg (Nat.not_le.2 outer), rfl, rfl, rfl, rfl⟩

/-- Settles O53: both sizes run `popFlags`. -/
theorem popfResult : Obligations.PopfResult := by
  unfold Obligations.PopfResult
  exact ⟨popsFlags_of_popFlags fun _ => rfl, popsFlags_of_popFlags fun _ => rfl⟩

section
variable {w : Nat} {s : State} {v : BitVec w} (reads : top w s = .ok v)
include reads

theorem popFlags_of_setsTF (setsTF : v.getLsbD 8 = true) : popFlags w s = .error (.refuse .popfSetsTF) :=
  bind_error.2 (.inr ⟨v, reads, if_pos setsTF⟩)

theorem popFlags_of_setsAC (noTF : v.getLsbD 8 = false) (setsAC : v.getLsbD 18 = true) :
    popFlags w s = .error (.refuse .popfSetsAC) := by
  simp [popFlags, reads, noTF, setsAC, refuse]

end

/-- Settles O54: the two tests of `popFlags`. -/
theorem popfRefusesTrapImages : Obligations.PopfRefusesTrapImages := by
  unfold Obligations.PopfRefusesTrapImages
  refine ⟨fun s v reads setsTF => ?word, fun s v reads => ⟨fun setsTF => ?long, fun noTF setsAC => ?longAC⟩⟩
  case word | long => exact (outcome_refused _ _).2 (popFlags_of_setsTF reads setsTF)
  case longAC => exact (outcome_refused _ _).2 (popFlags_of_setsAC reads noTF setsAC)

/-- An image of the flags a state has already changes none of them, at any privilege. -/
theorem popfFlags_of_carriesFlags {w : Nat} {img : BitVec w} {f : Flags} (h : carriesFlags img f) (cpl : BitVec 2) :
    popfFlags img cpl f = f := by
  obtain ⟨cf, pf, af, zf, sf, -, intf, df, of, iopl, nt, -⟩ := h
  simp only [popfFlags, cf, pf, af, zf, sf, intf, df, of, iopl, nt, ite_self]

/-- Settles O56: the image `pushfl` stores is one of the flags, and sets neither TF nor AC under the launch premises. -/
theorem popfUndoesPushf : Obligations.PopfUndoesPushf := by
  unfold Obligations.PopfUndoesPushf
  intro s launched writable readable
  have carries : carriesFlags ((flagImage s).setWidth 32) s.flags := (carriesFlags_flagImage s).setWidth (by decide)
  generalize image : (flagImage s).setWidth 32 = img at carries
  have ⟨_, _, _, _, _, tf, _, _, _, _, _, _, _, ac⟩ := carries
  obtain ⟨u, pushes, gpr, plat, mem, flags⟩ := push_leaves img writable
  have pushed := pushFlags_ok.2 ⟨u, image ▸ pushes, rfl⟩
  have popped := popFlags_ok.2 ⟨img, top_after_push (t := (u.drew 5).advance) gpr rfl plat mem readable,
    tf.trans launched.quiet.tf, (ac (by decide)).trans launched.quiet.ac, rfl⟩
  refine ⟨_, _, (outcome_next _ _).2 pushed, (outcome_next _ _).2 popped, ?flags, ?registers⟩
  case flags =>
    exact (congrArg (popfFlags img u.cpl) flags).trans (popfFlags_of_carriesFlags carries _)
  case registers => exact popped_gpr_after_push (t := (u.drew 5).advance) gpr

/-! ### The order of exceptions (R265) -/

/-- Settles O60: in each meaning the check that wins comes first. -/
theorem exceptionPriority : Obligations.ExceptionPriority := by
  unfold Obligations.ExceptionPriority
  refine ⟨fun s forbidden _ => ?insl, fun s m _ barred => ?divl, fun s x m barred => ?boundl,
    fun s r barred _ => ?popl⟩
  case insl =>
    have stops : insOnce 32 s = _ := bind_error.2 (.inl (requirePort_error.2 ⟨forbidden, rfl⟩))
    exact (outcome_fault _ _).2 (single_error.2 stops)
  case divl => exact (outcome_fault _ _).2 (divide_of_denied ⟨m, rfl, barred⟩)
  case boundl => exact (outcome_fault _ _).2 (checkBounds_of_denied (.inl barred))
  case popl => exact (outcome_fault _ _).2 (popSegment_of_denied barred)

end Sys2Proof.Machine
end

section
/-! PROOFS of the statements about the I/O instructions (R120 to R126). -/

namespace Sys2Proof.Machine

/-! ### Ports -/

theorem portNumber_of_toNat_eq {f : PortForm} {s : State} {port : Half} (h : port.toNat = portOf s f) :
    portNumber s f = port := by
  apply BitVec.eq_of_toNat_eq
  rw [h]
  cases f with
  | imm8 b => exact BitVec.toNat_setWidth_of_le (by decide)
  | dx => simp [portNumber, portOf, readPart_toNat, partDX, Gpr.get]

theorem readPart_partDX (s : State) : readPart 16 partDX s = dxPort s := by
  apply BitVec.eq_of_toNat_eq
  simp [readPart_toNat, partDX, dxPort, Gpr.get]

theorem portInSpace_iff {port : Half} {n : Nat} : portInSpace port n = true ↔ port.toNat + n ≤ portSpace :=
  decide_eq_true_iff

theorem requirePort_of_forbidden {port : Half} {n : Nat} {s : State} (h : ioPermitted s port n = false) :
    requirePort port n s = .error (.fault (.ioPermission port s.pc)) :=
  requirePort_error.2 ⟨h, rfl⟩

/-! ### `in`, `out` (R120, R121, R123, R124) -/

theorem inputs_of_portIn {w : Nat} {mk : PortForm → Instr} (narrow : w ≤ 32)
    (meaning : ∀ f s, exec (mk f) s = outcome (portIn w f s)) : inputs w mk := by
  intro f s port number
  obtain rfl := portNumber_of_toNat_eq number
  refine ⟨fun ⟨permitted, fits⟩ => ?completes, fun forbidden => ?faults⟩
  case completes =>
    have completes := portIn_ok.2 ⟨permitted, portInSpace_iff.2 fits, rfl⟩
    exact ⟨_, (meaning f s).trans ((outcome_next _ _).2 completes),
      readPart_writePart acc _ (s.afterPortRead w _) ((Nat.zero_add w).trans_le narrow), rfl, rfl⟩
  case faults =>
    exact (meaning f s).trans ((outcome_fault _ _).2 (bind_error.2 (.inl (requirePort_of_forbidden forbidden))))

theorem outputs_of_portOut {w : Nat} {mk : PortForm → Instr}
    (meaning : ∀ f s, exec (mk f) s = outcome (portOut w f s)) : outputs w mk := by
  intro f s port number
  obtain rfl := portNumber_of_toNat_eq number
  refine ⟨fun ⟨permitted, fits⟩ => ?completes, fun forbidden => ?faults⟩
  case completes =>
    have completes := portOut_ok.2 ⟨permitted, portInSpace_iff.2 fits, rfl⟩
    exact ⟨_, (meaning f s).trans ((outcome_next _ _).2 completes), rfl, rfl, rfl⟩
  case faults =>
    exact (meaning f s).trans ((outcome_fault _ _).2 (bind_error.2 (.inl (requirePort_of_forbidden forbidden))))

/-- Settles O45: each width runs `portIn` or `portOut`. -/
theorem inAndOutResult : Obligations.InAndOutResult := by
  unfold Obligations.InAndOutResult
  refine ⟨⟨?inb, ?inw, ?inl⟩, ?outb, ?outw, ?outl⟩
  case inb | inw | inl => exact inputs_of_portIn (by decide) fun _ _ => rfl
  case outb | outw | outl => exact outputs_of_portOut fun _ _ => rfl

/-! ### `rep` (R126) -/

section
variable {once : State → Except Stop State} {s u : State}

theorem repeated_of_count_zero (zero : s.gpr.ecx = 0#32) : repeated once s = .ok s.advance :=
  repeated_ok.2 (.inl ⟨zero, rfl⟩)

theorem repeated_of_once (nonzero : s.gpr.ecx ≠ 0#32) (h : once s = .ok u) : repeated once s = .ok u.countDown :=
  repeated_ok.2 (.inr ⟨nonzero, u, h, rfl⟩)

theorem repeated_of_stop {e : Stop} (nonzero : s.gpr.ecx ≠ 0#32) (h : once s = .error e) :
    repeated once s = .error e := by
  simp [repeated, nonzero, h]

end

theorem repeatsNothing_of_repeated {i : Instr} {once : State → Except Stop State}
    (meaning : ∀ s, exec i s = outcome (repeated once s)) : repeatsNothing i := fun s zero =>
  ⟨s.advance, (meaning s).trans ((outcome_next _ _).2 (repeated_of_count_zero zero)), rfl, rfl, rfl, rfl, rfl⟩

/-- An iteration's count touches `%ecx`, `pc` and the shadow alone, `pc` by what the transfer `s` to `u` left. -/
theorem countDown_repeatStepped {s u : State} (count : u.gpr.ecx = s.gpr.ecx) (pc : u.pc = s.pc)
    (len : u.len = s.len) : repeatStepped s u.countDown := by
  rw [repeatStepped, ← count, ← pc, ← len]
  obtain ⟨last, ends⟩ | ⟨more, ends⟩ := countDown_cases u
  · rw [ends, last]
    exact ⟨rfl, rfl⟩
  · rw [ends, if_neg more]
    exact ⟨rfl, rfl⟩

/-- What an iteration's count leaves unchanged. -/
structure CountKept (u t : State) : Prop where
  mem   : t.mem = u.mem
  log   : t.portLog = u.portLog
  edi   : t.gpr.edi = u.gpr.edi
  esi   : t.gpr.esi = u.gpr.esi
  rest  : t.plat = u.plat ∧ t.flags = u.flags ∧ t.cpl = u.cpl ∧ t.gpr.edx = u.gpr.edx ∧ t.len = u.len

theorem countDown_countKept (u : State) : CountKept u u.countDown := by
  obtain ⟨-, ends⟩ | ⟨-, ends⟩ := countDown_cases u <;> rw [ends] <;>
    exact ⟨rfl, rfl, rfl, rfl, rfl, rfl, rfl, rfl, rfl⟩

/-! ### `ins` (R122) -/

theorem insOnce_transfers {w : Nat} {s : State} (bytes : 8 * (w / 8) = w) (opened : portOpen s (dxPort s) (w / 8))
    (writable : s.canWrite (s.linear .es s.gpr.edi) (w / 8)) :
    ∃ u, insOnce w s = .ok u ∧ insTransferred w s u ∧ u.gpr.ecx = s.gpr.ecx ∧ u.pc = s.pc ∧ u.len = s.len := by
  obtain ⟨permitted, fits⟩ := opened
  rw [← readPart_partDX] at permitted fits
  refine ⟨_, insOnce_ok.2 ⟨permitted, writable, portInSpace_iff.2 fits, rfl⟩, ⟨?item, rfl, ?event⟩, rfl, rfl, rfl⟩
  case item =>
    rw [readPart_partDX]
    exact Memory.readLE_writeLE_item s.mem _ _ bytes
  case event =>
    rw [readPart_partDX]
    rfl

theorem insOnce_of_forbidden {w : Nat} {s : State} (h : ioPermitted s (dxPort s) (w / 8) = false) :
    insOnce w s = .error (.fault (.ioPermission (dxPort s) s.pc)) := by
  rw [← readPart_partDX] at h ⊢
  exact bind_error.2 (.inl (requirePort_of_forbidden h))

theorem insOnce_of_denied {w : Nat} {s : State} (permitted : ioPermitted s (dxPort s) (w / 8) = true)
    (barred : denied .write (s.linear .es s.gpr.edi) (w / 8) s) :
    insOnce w s = .error (.fault (.memoryAccess s.pc)) := by
  rw [← readPart_partDX] at permitted
  exact bind_error.2 (.inr ⟨(), requirePort_ok.2 permitted, bind_error.2 (.inl (checkAccess_of_denied barred))⟩)

/-- The transfer before the count is one after it. -/
theorem insTransferred.countDown {w : Nat} {s u : State} (h : insTransferred w s u) :
    insTransferred w s u.countDown := by
  obtain ⟨item, index, event⟩ := h
  have kept := countDown_countKept u
  exact ⟨by rw [kept.mem, item], kept.edi.trans index, kept.log.trans event⟩

theorem insWidth_of_insOnce {w : Nat} {ins rep : Instr} (bytes : 8 * (w / 8) = w)
    (meaning : ∀ s, exec ins s = outcome (single (insOnce w) s))
    (repMeaning : ∀ s, exec rep s = outcome (repeated (insOnce w) s)) : insWidth w ins rep := by
  have stops : ∀ s e, insOnce w s = .error (.fault e) →
      exec ins s = .fault e ∧ (s.gpr.ecx ≠ 0#32 → exec rep s = .fault e) := fun s e stop =>
    ⟨(meaning s).trans ((outcome_fault _ _).2 (single_error.2 stop)),
      fun nonzero => (repMeaning s).trans ((outcome_fault _ _).2 (repeated_of_stop nonzero stop))⟩
  refine ⟨fun s opened writable => ?transfers, fun s forbidden => stops s _ (insOnce_of_forbidden forbidden),
    fun s permitted barred => stops s _ (insOnce_of_denied permitted barred), repeatsNothing_of_repeated repMeaning⟩
  obtain ⟨u, once, transferred, count, pc, len⟩ := insOnce_transfers bytes opened writable
  refine ⟨⟨u.advance, (meaning s).trans ((outcome_next _ _).2 (single_ok.2 ⟨u, once, rfl⟩)), transferred, ?_⟩,
    fun nonzero => ⟨u.countDown, (repMeaning s).trans ((outcome_next _ _).2 (repeated_of_once nonzero once)),
      transferred.countDown, countDown_repeatStepped count pc len⟩⟩
  rw [advances, State.advance_pc, State.pcNext, pc, len]

/-- Settles O46: `ins` is one `insOnce`, an iteration of `rep ins` one more with its count. -/
theorem insResult : Obligations.InsResult := by
  unfold Obligations.InsResult
  refine ⟨?byte, ?half, ?long⟩
  case byte | half | long => exact insWidth_of_insOnce rfl (fun _ => rfl) fun _ => rfl

/-! ### `outs` (R125) -/

theorem outsSegment_of_outsReads {g : Option SReg} {s : State} {r : SReg} (h : outsReads g s r) :
    outsSegment g s = .ok r := by
  obtain ⟨bases, ⟨rfl, rfl⟩ | rfl⟩ := h <;> exact outsSegment_ok.2 ⟨bases, rfl⟩

/-- The item of `outs` as a long, whatever its width. -/
theorem setWidth_ofNat_readLE {w : Nat} (m : Memory) (a : Nat) (bytes : 8 * (w / 8) = w) :
    (BitVec.ofNat w (m.readLE a (w / 8))).setWidth 32 = BitVec.ofNat 32 (m.readLE a (w / 8)) := by
  apply BitVec.eq_of_toNat_eq
  rw [BitVec.toNat_setWidth, m.toNat_ofNat_readLE a bytes, BitVec.toNat_ofNat]

theorem outsOnce_transfers {w : Nat} {g : Option SReg} {s : State} {r : SReg} (bytes : 8 * (w / 8) = w)
    (reads : outsReads g s r) (opened : portOpen s (dxPort s) (w / 8))
    (readable : s.canRead (s.linear r s.gpr.esi) (w / 8)) :
    ∃ u, outsOnce w g s = .ok u ∧ outsTransferred w r s u ∧ u.gpr.ecx = s.gpr.ecx ∧ u.pc = s.pc ∧ u.len = s.len ∧
      u.plat = s.plat ∧ u.flags = s.flags ∧ u.cpl = s.cpl ∧ u.gpr.edx = s.gpr.edx := by
  obtain ⟨permitted, fits⟩ := opened
  rw [← readPart_partDX] at permitted fits
  refine ⟨_, outsOnce_ok.2 ⟨r, _, outsSegment_of_outsReads reads, permitted, load_eq readable, portInSpace_iff.2 fits,
    rfl⟩, ⟨rfl, rfl, ?event⟩, rfl, rfl, rfl, rfl, rfl, rfl, rfl⟩
  rw [← setWidth_ofNat_readLE _ _ bytes, ← readPart_partDX]
  rfl

theorem outsOnce_of_forbidden {w : Nat} {g : Option SReg} {s : State} {r : SReg} (reads : outsReads g s r)
    (h : ioPermitted s (dxPort s) (w / 8) = false) :
    outsOnce w g s = .error (.fault (.ioPermission (dxPort s) s.pc)) := by
  rw [← readPart_partDX] at h ⊢
  exact bind_error.2 (.inr ⟨r, outsSegment_of_outsReads reads, bind_error.2 (.inl (requirePort_of_forbidden h))⟩)

theorem outsOnce_of_denied {w : Nat} {g : Option SReg} {s : State} {r : SReg} (reads : outsReads g s r)
    (permitted : ioPermitted s (dxPort s) (w / 8) = true) (barred : denied .read (s.linear r s.gpr.esi) (w / 8) s) :
    outsOnce w g s = .error (.fault (.memoryAccess s.pc)) := by
  rw [← readPart_partDX] at permitted
  exact bind_error.2 (.inr ⟨r, outsSegment_of_outsReads reads, bind_error.2 (.inr ⟨(), requirePort_ok.2 permitted,
    bind_error.2 (.inl (load_error.2 (checkAccess_of_denied barred)))⟩)⟩)

theorem outsOnce_of_bases {w : Nat} {g : Option SReg} {s : State} (differ : s.plat.segBase.ds ≠ s.plat.segBase.es) :
    outsOnce w g s = .error (.refuse .outsSegment) :=
  bind_error.2 (.inl (if_neg differ))

theorem outsTransferred.countDown {w : Nat} {r : SReg} {s u : State} (h : outsTransferred w r s u) :
    outsTransferred w r s u.countDown := by
  obtain ⟨index, mem, event⟩ := h
  have kept := countDown_countKept u
  exact ⟨kept.esi.trans index, kept.mem.trans mem, kept.log.trans event⟩

theorem outsWidth_of_outsOnce {w : Nat} {outs rep : Option SReg → Instr} (bytes : 8 * (w / 8) = w)
    (meaning : ∀ g s, exec (outs g) s = outcome (single (outsOnce w g) s))
    (repMeaning : ∀ g s, exec (rep g) s = outcome (repeated (outsOnce w g) s)) : outsWidth w outs rep := by
  have stops : ∀ g s e, outsOnce w g s = .error e →
      exec (outs g) s = outcome (.error e) ∧ (s.gpr.ecx ≠ 0#32 → exec (rep g) s = outcome (.error e)) :=
    fun g s e stop => ⟨(meaning g s).trans (outcome_error.2 (single_error.2 stop)),
      fun nonzero => (repMeaning g s).trans (outcome_error.2 (repeated_of_stop nonzero stop))⟩
  refine ⟨fun g s r reads opened readable => ?transfers,
    fun g s r reads forbidden => stops g s _ (outsOnce_of_forbidden reads forbidden),
    fun g s r reads permitted barred => stops g s _ (outsOnce_of_denied reads permitted barred),
    fun g s differ => stops g s _ (outsOnce_of_bases differ), fun g => repeatsNothing_of_repeated (repMeaning g)⟩
  obtain ⟨u, once, transferred, count, pc, len, -⟩ := outsOnce_transfers bytes reads opened readable
  refine ⟨⟨u.advance, (meaning g s).trans ((outcome_next _ _).2 (single_ok.2 ⟨u, once, rfl⟩)), transferred, ?_⟩,
    fun nonzero => ⟨u.countDown, (repMeaning g s).trans ((outcome_next _ _).2 (repeated_of_once nonzero once)),
      transferred.countDown, countDown_repeatStepped count pc len⟩⟩
  rw [advances, State.advance_pc, State.pcNext, pc, len]

/-- Settles O47: `outs` is one `outsOnce`, an iteration of `rep outs` one more with its count. -/
theorem outsResult : Obligations.OutsResult := by
  unfold Obligations.OutsResult
  refine ⟨?byte, ?half, ?long⟩
  case byte | half | long => exact outsWidth_of_outsOnce rfl (fun _ _ => rfl) fun _ _ => rfl

/-! ### `rep outs` to the end (R126) -/

/-- The event of the `k`-th item from here on. -/
def outsItem (w : Nat) (r : SReg) (s : State) (k : Nat) : PortEvent :=
  ⟨.write, dxPort s, w / 8,
    BitVec.ofNat 32 (s.mem.readLE (s.linear r (s.gpr.esi + BitVec.ofNat 32 (k * (w / 8)))).toNat (w / 8))⟩

/-- All that `rep outs` needs to send `n` items upward from `s`. -/
structure SendsReady (w : Nat) (g : Option SReg) (r : SReg) (n : Nat) (s : State) : Prop where
  count    : s.gpr.ecx.toNat = n
  up       : s.flags.df = false
  reads    : outsReads g s r
  opened   : portOpen s (dxPort s) (w / 8)
  readable : ∀ k < n, s.canRead (s.linear r (s.gpr.esi + BitVec.ofNat 32 (k * (w / 8)))) (w / 8)

/-- `n` items have been sent between `s` and `t`. -/
structure Sent (w : Nat) (r : SReg) (n : Nat) (s t : State) : Prop where
  mem   : t.mem = s.mem
  index : t.gpr.esi = s.gpr.esi + BitVec.ofNat 32 (n * (w / 8))
  log   : t.portLog = s.portLog ++ (List.range n).map (outsItem w r s)

/-- An item further on is one more step away. -/
theorem add_step_add_steps (a : Word) (n k : Nat) :
    a + BitVec.ofNat 32 n + BitVec.ofNat 32 (k * n) = a + BitVec.ofNat 32 ((k + 1) * n) := by
  rw [Nat.succ_mul, Nat.add_comm (k * n), BitVec.ofNat_add, BitVec.add_assoc]

section
variable {w n : Nat} {g : Option SReg} {r : SReg} {s : State}

theorem Sent.cons {u t : State} (first : Sent w r 1 s u) (rest : Sent w r n u t)
    (later : ∀ k, outsItem w r u k = outsItem w r s (k + 1)) : Sent w r (n + 1) s t where
  mem   := rest.mem.trans first.mem
  index := by rw [rest.index, first.index, Nat.one_mul, add_step_add_steps]
  log   := by
    rw [rest.log, first.log, List.range_succ_eq_map (n := n), List.append_assoc]
    simp [later, Function.comp_def]

/-- One iteration sends one item and leaves all that the others need. -/
theorem repOuts_iteration (bytes : 8 * (w / 8) = w) (ready : SendsReady w g r (n + 1) s) :
    ∃ u, repeated (outsOnce w g) s = .ok u ∧ SendsReady w g r n u ∧ Sent w r 1 s u ∧
      (∀ k, outsItem w r u k = outsItem w r s (k + 1)) ∧
      u.pc = (if n = 0 then s.pc + s.len else s.pc) ∧ u.len = s.len := by
  have firstReadable := ready.readable 0 n.succ_pos
  rw [Nat.zero_mul, BitVec.add_zero] at firstReadable
  obtain ⟨u, once, transferred, count, pc, len, plat, flags, cpl, edx⟩ :=
    outsOnce_transfers bytes ready.reads ready.opened firstReadable
  have nonzero : s.gpr.ecx ≠ 0#32 := fun zero => by simpa [zero] using ready.count
  have one : s.gpr.ecx = 1#32 ↔ n = 0 := by
    rw [← BitVec.toNat_inj, ready.count]
    simp
  obtain ⟨index, mem, event⟩ := transferred.countDown
  obtain ⟨counted, next⟩ := countDown_repeatStepped count pc len
  obtain ⟨-, -, -, -, plat', flags', cpl', edx', len'⟩ := countDown_countKept u
  rw [stepped, ready.up] at index
  have port : dxPort u.countDown = dxPort s := by rw [dxPort, edx', edx, dxPort]
  have further : ∀ k, u.countDown.linear r (u.countDown.gpr.esi + BitVec.ofNat 32 (k * (w / 8))) =
      s.linear r (s.gpr.esi + BitVec.ofNat 32 ((k + 1) * (w / 8))) := fun k => by
    rw [State.linear, plat', plat, index, ← add_step_add_steps]
    rfl
  refine ⟨_, repeated_of_once nonzero once, ⟨?count, ?up, ?reads, ?opened, fun k below => ?readable⟩,
    ⟨mem, ?index, ?log⟩, fun k => ?later, ?pc, len'.trans len⟩
  case count =>
    rw [counted, BitVec.toNat_sub_of_le (by simp [BitVec.le_def, ready.count]), ready.count]
    rfl
  case up => rw [flags', flags, ready.up]
  case reads =>
    rw [outsReads, plat', plat]
    exact ready.reads
  case opened =>
    rw [portOpen, port, ioPermitted, cpl', cpl, flags', flags, plat', plat]
    exact ready.opened
  case readable =>
    rw [further, canRead_congr (plat'.trans plat)]
    exact ready.readable (k + 1) (Nat.succ_lt_succ below)
  case index => rw [index, Nat.one_mul]; rfl
  case log => rw [event]; simp [outsItem]
  case later => rw [outsItem, port, further, mem, outsItem]
  case pc => rw [next]; simp only [one]

/-- As many iterations as `%ecx` says; `pc` is past the instruction if there was any. -/
theorem execTimes_repOuts {i : Instr} (bytes : 8 * (w / 8) = w)
    (meaning : ∀ s, exec i s = outcome (repeated (outsOnce w g) s)) (ready : SendsReady w g r n s) :
    ∃ t, execTimes i n s = .next t ∧ t.gpr.ecx = 0#32 ∧ Sent w r n s t ∧
      t.pc = if n = 0 then s.pc else s.pc + s.len := by
  induction n generalizing s with
  | zero =>
    exact ⟨s, rfl, BitVec.eq_of_toNat_eq ready.count, ⟨rfl, by simp, by simp⟩, rfl⟩
  | succ n ih =>
    obtain ⟨u, iterates, ready, first, later, pc, len⟩ := repOuts_iteration bytes ready
    obtain ⟨t, runs, count, rest, ends⟩ := ih ready
    refine ⟨t, ?_, count, first.cons rest later, ?_⟩
    · rw [execTimes, meaning, iterates]
      exact runs
    · rw [ends, pc, len]
      by_cases last : n = 0 <;> simp [last]

end

theorem outsBlock_of_repeated {w : Nat} {rep : Option SReg → Instr} (bytes : 8 * (w / 8) = w)
    (meaning : ∀ g s, exec (rep g) s = outcome (repeated (outsOnce w g) s)) : outsBlock w rep := by
  intro g r s n count nonzero up reads opened readable
  obtain ⟨t, runs, zero, sent, pc⟩ := execTimes_repOuts bytes (meaning g) ⟨count, up, reads, opened, readable⟩
  exact ⟨t, runs, zero, pc.trans (if_neg nonzero), sent.mem, sent.index, sent.log⟩

/-- Settles O48: by induction on the count, each iteration leaving what the next one needs. -/
theorem repOutsSendsTheBlock : Obligations.RepOutsSendsTheBlock := by
  unfold Obligations.RepOutsSendsTheBlock
  refine ⟨?byte, ?half, ?long⟩
  case byte | half | long => exact outsBlock_of_repeated rfl fun _ _ => rfl

end Sys2Proof.Machine
end
